-- ==== Sys2Proof/Word.lean ====
section
/-! DEFINITION. Word types of the DES key-schedule engine, and the name of a bit plane (an operand of the
instruction set). The bit-level operations stand in Machine/Operands.lean. -/

namespace Sys2Proof

/-- One bus word, and one command word (20_memory.md R71, 30_encoding.md R100). -/
abbrev Word := BitVec 32

/-- A 64-bit value: a block, a key, a text key, a bit plane (00_scope.md R5). -/
abbrev Block := BitVec 64

/-- A 32-bit Feistel half (00_scope.md R5). -/
abbrev Half := BitVec 32

/-- A 48-bit subkey (00_scope.md R5). -/
abbrev Subkey := BitVec 48

/-- A 28-bit key-schedule half C or D (00_scope.md R5). -/
abbrev KeyHalf := BitVec 28

/-- One byte: an entry of PTAB, a byte of a key or a text. -/
abbrev Byte := BitVec 8

/-- The two bit planes a GETBIT or PUTBIT can name (30_encoding.md R103, 40_bitplane.md R130). -/
inductive Plane where
  | pin
  | pout
deriving DecidableEq, Repr

end Sys2Proof
end

