-- ==== Sys2Proof/Syntax.lean ====
section
/-! DEFINITION. The abstract syntax: one constructor for each row of the opcode map (30_encoding.md R105). -/

namespace Sys2Proof

/-- A decoded command. `idx` is the 1-based bit position of GETBIT and PUTBIT and `n` the bit count of PERM: plain
unsigned numbers (30_encoding.md R102), whose 7-bit width is checked by `Instr.wf`. -/
inductive Instr where
  | nop
  | keyprep
  | keysched
  | enc
  | dec
  | ffunc
  | getbit (plane : Plane) (idx : Nat)
  | putbit (plane : Plane) (idx : Nat) (v : Bool)
  | perm (n : Nat)
  | permIp
  | permFp
  | permE
  | permP
  | permPc1
  | permPc2
deriving DecidableEq, Repr

end Sys2Proof
end

