-- ==== Sys2Proof/WellFormed.lean ====
section
/-! DEFINITION. Which instructions have a command word: the operand checks an assembler makes. -/

namespace Sys2Proof

/-- An operand fits the 7-bit IDX / N field: "An assembler refuses an operand outside the field's width
(`<i>` or `<n>` above 127 …)" (30_encoding.md R109). -/
def fitsIdx (n : Nat) : Bool := n < 128

/-- The instruction has a command word. -/
def Instr.wf : Instr → Bool
  | .nop => true
  | .keyprep => true
  | .keysched => true
  | .enc => true
  | .dec => true
  | .ffunc => true
  | .getbit _ idx => fitsIdx idx
  | .putbit _ idx _ => fitsIdx idx
  | .perm n => fitsIdx n
  | .permIp => true
  | .permFp => true
  | .permE => true
  | .permP => true
  | .permPc1 => true
  | .permPc2 => true

end Sys2Proof
end

