-- ==== Sys2Proof/Decode.lean ====
section
/-! DEFINITION. Decoding a command word and encoding an instruction, from 30_encoding.md R101 to R107. Decoding is
total on 32-bit words; `none` is the spec's ILLEGAL. -/

namespace Sys2Proof

/-- `field(c, hi, lo)` of 00_scope.md R11: the bits `hi` down to `lo` of the command word, as an unsigned number. -/
def field (c : Word) (hi lo : Nat) : Nat := (c.extractLsb' lo (hi + 1 - lo)).toNat

/-- IDX / N, `c[14:8]` (30_encoding.md R102). -/
def idxField (c : Word) : Nat := field c 14 8

/-- PLANE, `c[16]`: 0 is PIN, 1 is POUT (30_encoding.md R103). -/
def planeField (c : Word) : Plane := if c.getLsbD 16 then .pout else .pin

/-- V, `c[17]` (30_encoding.md R103). -/
def vField (c : Word) : Bool := c.getLsbD 17

/-- One row of the opcode map (30_encoding.md R105), with the operands it takes from its free fields. -/
structure OpRow where
  mnemonic : String
  matchBits : Word
  maskBits : Word
  build : Word → Instr

/-- The opcode map, in the order of 30_encoding.md R105. -/
def opRows : List OpRow :=
  [ ⟨"NOP", 0x00000000, 0xFFFFFFFF, fun _ => .nop⟩,
    ⟨"KEYPREP", 0x00000001, 0xFFFFFFFF, fun _ => .keyprep⟩,
    ⟨"KEYSCHED", 0x00000002, 0xFFFFFFFF, fun _ => .keysched⟩,
    ⟨"ENC", 0x00000003, 0xFFFFFFFF, fun _ => .enc⟩,
    ⟨"DEC", 0x00000004, 0xFFFFFFFF, fun _ => .dec⟩,
    ⟨"FFUNC", 0x00000005, 0xFFFFFFFF, fun _ => .ffunc⟩,
    ⟨"GETBIT", 0x00000006, 0xFFFE80FF, fun c => .getbit (planeField c) (idxField c)⟩,
    ⟨"PUTBIT", 0x00000007, 0xFFFC80FF, fun c => .putbit (planeField c) (idxField c) (vField c)⟩,
    ⟨"PERM", 0x00000008, 0xFFFF80FF, fun c => .perm (idxField c)⟩,
    ⟨"PERM.IP", 0x00100008, 0xFFFFFFFF, fun _ => .permIp⟩,
    ⟨"PERM.FP", 0x00200008, 0xFFFFFFFF, fun _ => .permFp⟩,
    ⟨"PERM.E", 0x00300008, 0xFFFFFFFF, fun _ => .permE⟩,
    ⟨"PERM.P", 0x00400008, 0xFFFFFFFF, fun _ => .permP⟩,
    ⟨"PERM.PC1", 0x00500008, 0xFFFFFFFF, fun _ => .permPc1⟩,
    ⟨"PERM.PC2", 0x00600008, 0xFFFFFFFF, fun _ => .permPc2⟩ ]

/-- "a word `c` is the command when `c AND mask = match`" (30_encoding.md R105). -/
def OpRow.hits (r : OpRow) (c : Word) : Bool := c &&& r.maskBits == r.matchBits

/-- Decode, "as a total function from 32-bit words" (30_encoding.md R106); `none` is ILLEGAL (R107). -/
def decode (c : Word) : Option Instr := (opRows.find? (·.hits c)).map (·.build c)

/-- The PLANE bit of a plane (30_encoding.md R103, R109). -/
def Plane.code : Plane → Nat
  | .pin => 0
  | .pout => 1

/-- The command word of an instruction, from the words of 30_encoding.md R105 and the sums of R109. -/
def encode : Instr → Word
  | .nop => 0x00000000
  | .keyprep => 0x00000001
  | .keysched => 0x00000002
  | .enc => 0x00000003
  | .dec => 0x00000004
  | .ffunc => 0x00000005
  | .getbit p i => 0x06#32 ||| BitVec.ofNat 32 i <<< 8 ||| BitVec.ofNat 32 p.code <<< 16
  | .putbit p i v =>
    0x07#32 ||| BitVec.ofNat 32 i <<< 8 ||| BitVec.ofNat 32 p.code <<< 16 ||| BitVec.ofNat 32 v.toNat <<< 17
  | .perm n => 0x08#32 ||| BitVec.ofNat 32 n <<< 8
  | .permIp => 0x08#32 ||| 1#32 <<< 20
  | .permFp => 0x08#32 ||| 2#32 <<< 20
  | .permE => 0x08#32 ||| 3#32 <<< 20
  | .permP => 0x08#32 ||| 4#32 <<< 20
  | .permPc1 => 0x08#32 ||| 5#32 <<< 20
  | .permPc2 => 0x08#32 ||| 6#32 <<< 20

/-- The instruction decoded from a table word of `nbits` bits; bits above `nbits` are 0. One command is one 32-bit
register word (30_encoding.md R100), so there is no byte order to undo (20_memory.md R84). -/
def decodeTableWord (nbits w : Nat) : Option Instr := decode (BitVec.ofNat 32 (w % 2 ^ nbits))

end Sys2Proof
end

