-- ==== Sys2Proof/Config.lean ====
section
/-! DEFINITION. What is fixed for the machine: the sizes of 00_scope.md R5 and the platform's open parameter
DES_BASE. The ROM tables (10_state.md R42) stand in Machine/Tables.lean. -/

namespace Sys2Proof.Config

/-- The register window is 0x200 bytes (20_memory.md R70). -/
def windowBytes : Nat := 0x200

/-- The OPEN parameter behind DES_BASE: which 0x200-byte page of the platform's address space the window is
(92_eei_decisions.md D3). It has no body, so no claim can rest on a value of it. Log entry 3. -/
opaque desBasePage : Nat

/-- DES_BASE, "a platform address aligned to 0x200" (92_eei_decisions.md D3). -/
def desBase : Nat := windowBytes * desBasePage

end Sys2Proof.Config
end

