-- ==== Sys2Proof/Machine/Types.lean ====
section
/-! DEFINITION. The finite types beside the state: the registers of the window, access widths, bus responses, host
statements, turns, error codes. -/

namespace Sys2Proof.Machine

/-- The registers of the window (20_memory.md R74, names R111). `ptab w` is PTABw; `skHi i` and `skLo i` are
SK(i+1)_HI and SK(i+1)_LO, since the spec numbers the schedule from 1 (10_state.md R36). -/
inductive Reg where
  | cmd | status
  | keyHi | keyLo | ktextHi | ktextLo | blkHi | blkLo | blkLen
  | bitres
  | fR | fKHi | fKLo | fOut
  | pinHi | pinLo | poutHi | poutLo
  | ptab (w : Fin 16)
  | skHi (i : Fin 16)
  | skLo (i : Fin 16)
deriving DecidableEq, Repr

/-- The access column of 20_memory.md R74. STATUS is RO with OVR W1C: `w1c`. -/
inductive Access where
  | rw | ro | wo | w1c
deriving DecidableEq, Repr

/-- The width of a host access: 32 bits, or one of the widths the engine answers with SLVERR, "8, 16, 64 bits, a
burst" (20_memory.md R71). -/
inductive Width where
  | w8 | w16 | w32 | w64 | burst
deriving DecidableEq, Repr

/-- The bus response (20_memory.md R71 to R73, R82). -/
inductive Resp where
  | okay
  | slverr
deriving DecidableEq, Repr

/-- The answer to one access: the response, and the data of a read (`none` for a write). -/
structure Response where
  resp : Resp
  data : Option Word
deriving DecidableEq, Repr

/-- A resolved host statement (30_encoding.md R110). An offset is relative to DES_BASE. `WR <reg>, <imm>` is `write` at
the register's offset with width `w32`, `RD <reg>` the same for `read`; other offsets and widths are the accesses of
20_memory.md R71 to R73. `bnz r m t` reads `r` and goes to position `t` if the value AND `m` is not 0. -/
inductive HostStmt where
  | write (off : Nat) (w : Width) (v : Word)
  | read (off : Nat) (w : Width)
  | bnz (r : Reg) (mask : Word) (target : Nat)
deriving DecidableEq, Repr

/-- Whose event is next: the host's next statement, the engine's step (45_control.md R241), or the reset input
(70_reset_and_hazards.md R291). -/
inductive Turn where
  | host
  | engine
  | reset
deriving DecidableEq, Repr

/-- The error a command can report (60_exceptions.md R261); no error is `none : Option ErrorCode`. -/
inductive ErrorCode where
  | illegalCmd
  | bitRange
  | permRange
  | noSchedule
deriving DecidableEq, Repr

end Sys2Proof.Machine
end

