-- ==== Sys2Proof/Machine/State.lean ====
section
/-! DEFINITION. The state of the machine: every register 10_state.md gives the engine, the pending command, and the
model's own fields for the other agents (the host's program and position, the last bus response, the order of
events). Plain data. -/

namespace Sys2Proof.Machine

structure State where
  /-- KEY (10_state.md R32). -/
  key : Block
  /-- KTEXT (R33). -/
  ktext : Block
  /-- BLK (R34). -/
  blk : Block
  /-- BLK_LEN.LEN (R35). -/
  blkLen : BitVec 4
  /-- SK[1..16] (R36): entry `i` of the vector is SK[i+1]. -/
  sk : Vector Subkey 16
  /-- F_R (R38). -/
  fR : Half
  /-- F_K (R38). -/
  fK : Subkey
  /-- F_OUT (R38). -/
  fOut : Half
  /-- BITRES[0] (R39). -/
  bitres : Bool
  /-- PIN (R40). -/
  pin : Block
  /-- POUT (R40). -/
  pout : Block
  /-- PTAB[1..64] (R41): entry `k` of the vector is PTAB[k+1]. -/
  ptab : Vector Byte 64
  /-- STATUS.BUSY (R44). -/
  busy : Bool
  /-- STATUS.DONE (R44). -/
  done : Bool
  /-- STATUS.ERR (R44). -/
  err : Bool
  /-- STATUS.KSV (R37, R44). -/
  ksv : Bool
  /-- STATUS.OVR (R44). -/
  ovr : Bool
  /-- STATUS.ECODE (R44). -/
  ecode : BitVec 4
  /-- PENDING (R49). -/
  pending : Option Word
  /-- The model's own: the host's statements (30_encoding.md R110; log entry 2). -/
  program : List HostStmt
  /-- The model's own: "A model's \"pc\" is the host program's own position" (R46; log entry 2). -/
  hostPc : Nat
  /-- The model's own: what the bus answered to the host's last access (log entry 6). -/
  response : Option Response
  /-- The model's own: whose events come next, oldest first (20_memory.md R88; log entry 1). -/
  turns : List Turn
deriving DecidableEq, Repr

/-- Why the machine could stop with a fault: never. "none stops the engine" (60_exceptions.md, introduction; R260): a
command's error is a STATUS code, a bad access is the response SLVERR. Nothing raises a fault, so there is none. -/
inductive Fault where
deriving DecidableEq, Repr

/-- Why the model could refuse. -/
inductive Refusal where
  /-- Raised only by an arm of `exec` whose instruction has no meaning yet: no arm does. Safe: the model stops. -/
  | notModelled (mnemonic : String)
deriving DecidableEq, Repr

/-- What a step answers. -/
abbrev Result := Host.Outcome State Fault Refusal

/-- The machine right after reset (10_state.md R52, 70_reset_and_hazards.md R290). The last four fields are the
model's own (log entry 8, DESIGN CHOICE). -/
def State.reset : State where
  key := 0
  ktext := 0
  blk := 0
  blkLen := 0
  sk := Vector.replicate 16 0
  fR := 0
  fK := 0
  fOut := 0
  bitres := false
  pin := 0
  pout := 0
  ptab := Vector.replicate 64 0
  busy := false
  done := false
  err := false
  ksv := false
  ovr := false
  ecode := 0
  pending := none
  program := []
  hostPc := 0
  response := none
  turns := []

end Sys2Proof.Machine
end

