-- ==== Sys2Proof/Machine/Operands.lean ====
section
/-! DEFINITION. Bit strings in the spec's numbering, the permutation primitive, rotation, bytes, and the operand
forms of the commands (00_scope.md R6 to R10, 20_memory.md R75, 40_bitplane.md R130). -/

namespace Sys2Proof.Machine

/-- `s⟨j⟩ = V[w − j]` for 1 ≤ j ≤ w: DES bit 1 is the most significant bit (00_scope.md R7). -/
def desBit {w : Nat} (s : BitVec w) (j : Nat) : Bool := s.getLsbD (w - j)

/-- The bit string of width `w` whose DES bit `j` is `f j`, for 1 ≤ j ≤ w (00_scope.md R7, R8): each bit goes in at
the low end, so the first ends up the most significant. -/
def ofDesBits : (w : Nat) → (Nat → Bool) → BitVec w
  | 0, _ => 0#0
  | w + 1, f => (ofDesBits w f).concat (f (w + 1))

/-- Entry `T[k]`, 1-based, of a table (00_scope.md R9). -/
def entry (T : List Nat) (k : Nat) : Nat := T.getD (k - 1) 0

/-- `Perm(T, s)` for the table `T` of `n` entries: `Perm(T, s)⟨k⟩ = s⟨T[k]⟩` (00_scope.md R9). -/
def perm {w : Nat} (n : Nat) (T : List Nat) (s : BitVec w) : BitVec n :=
  ofDesBits n fun k => desBit s (entry T k)

/-- `rotl28(x, s) = ((x · 2^s) mod 2^28) + ⌊x / 2^(28−s)⌋` (00_scope.md R10). -/
def rotl28 (x : KeyHalf) (s : Nat) : KeyHalf := (x <<< s) + (x >>> (28 - s))

/-- Byte `k` (0-based) of an 8-byte buffer is `V[63−8k : 56−8k]` (00_scope.md R7). -/
def byteOf (x : Block) (k : Nat) : Byte := x.extractLsb' (56 - 8 * k) 8

/-- The 8-byte buffer whose byte `k` is `f k` (00_scope.md R7, 20_memory.md R84). -/
def ofBytes (f : Nat → Byte) : Block := f 0 ++ f 1 ++ f 2 ++ f 3 ++ f 4 ++ f 5 ++ f 6 ++ f 7

/-- `X_HI = X[63:32]` of a 64-bit register (20_memory.md R75). -/
def hi64 (x : Block) : Word := x.extractLsb' 32 32

/-- `X_LO = X[31:0]` of a 64-bit register (R75). -/
def lo64 (x : Block) : Word := x.extractLsb' 0 32

/-- "a write of `X_HI` sets `X[63:32]` and keeps `X[31:0]`" (R75). -/
def setHi64 (x : Block) (v : Word) : Block := v ++ lo64 x

/-- The reverse for `X_LO` (R75). -/
def setLo64 (x : Block) (v : Word) : Block := hi64 x ++ v

/-- `Y_HI[15:0] = Y[47:32]`, `Y_HI[31:16]` reads 0 (R75). -/
def hi48 (y : Subkey) : Word := (y.extractLsb' 32 16).setWidth 32

/-- `Y_LO = Y[31:0]` of a 48-bit register (R75). -/
def lo48 (y : Subkey) : Word := y.extractLsb' 0 32

/-- A write of `Y_HI`: the bits `[31:16]` written are ignored (R75). -/
def setHi48 (y : Subkey) (v : Word) : Subkey := v.setWidth 16 ++ lo48 y

/-- A write of `Y_LO` (R75). -/
def setLo48 (y : Subkey) (v : Word) : Subkey := (y.extractLsb' 32 16 : BitVec 16) ++ v

/-- `Plane(0) = PIN`, `Plane(1) = POUT` (40_bitplane.md R130). -/
def State.plane (s : State) : Plane → Block
  | .pin => s.pin
  | .pout => s.pout

/-- Write of the plane a PUTBIT names (40_bitplane.md R130, R132). -/
def State.setPlane (s : State) (p : Plane) (x : Block) : State :=
  match p with
  | .pin => { s with pin := x }
  | .pout => { s with pout := x }

/-- A legal bit position or table entry: 1..64 (40_bitplane.md R131, R133). -/
def legalBit (i : Nat) : Bool := 1 ≤ i && i ≤ 64

/-- `X` with `X[64 − i] <- v`, "every other bit of X unchanged" (40_bitplane.md R132). -/
def putDesBit (x : Block) (i : Nat) (v : Bool) : Block :=
  ofDesBits 64 fun j => if j = i then v else desBit x j

/-- `PTAB[1..64]` as a table of bit positions (10_state.md R41). -/
def State.userTable (s : State) : List Nat := s.ptab.toList.map BitVec.toNat

end Sys2Proof.Machine
end

