-- ==== Sys2Proof/Machine/Flags.lean ====
section
/-! DEFINITION. The only flags of the engine, the fields of STATUS (10_state.md R44, R47): the STATUS word and the
codes ECODE can take. -/

namespace Sys2Proof.Machine

/-- The value of ECODE for an error (60_exceptions.md R261). -/
def ErrorCode.code : ErrorCode → BitVec 4
  | .illegalCmd => 1
  | .bitRange => 2
  | .permRange => 3
  | .noSchedule => 4

/-- ECODE at a completion: 0 when there is no error (10_state.md R44, 60_exceptions.md R261). -/
def ecodeOf : Option ErrorCode → BitVec 4
  | none => 0
  | some e => e.code

/-- STATUS as the bus reads it: `[31:12]` 0, `[11:8]` ECODE, `[7:5]` 0, `[4]` OVR, `[3]` KSV, `[2]` ERR, `[1]` DONE,
`[0]` BUSY (10_state.md R44). -/
def State.statusWord (s : State) : Word :=
  0#20 ++ s.ecode ++ 0#3 ++ BitVec.ofBool s.ovr ++ BitVec.ofBool s.ksv ++ BitVec.ofBool s.err ++
    BitVec.ofBool s.done ++ BitVec.ofBool s.busy

end Sys2Proof.Machine
end

