-- ==== Sys2Proof/Machine/Ops.lean ====
section
/-! DEFINITION. The operations over the registers: acceptance and completion of a command (an error report is a
completion), the register map, and the host's bus reads and writes. -/

namespace Sys2Proof.Machine

/-- Acceptance: PENDING <- c, BUSY <- 1, DONE, ERR, ECODE <- 0, "Nothing else changes" (45_control.md R240). -/
def State.accept (s : State) (c : Word) : State :=
  { s with pending := some c, busy := true, done := false, err := false, ecode := 0 }

/-- Completion, "the end of every step": BUSY <- 0, DONE <- 1, ERR and ECODE from the outcome (45_control.md R242). -/
def State.complete (s : State) (e : Option ErrorCode) : State :=
  { s with busy := false, done := true, err := e.isSome, ecode := ecodeOf e }

/-- `raise Error(CODE)`, the engine's whole exception entry: the command completes with the code and "writes STATUS
and nothing else" (00_scope.md R11, 45_control.md R243, 60_exceptions.md R260). There is no trap entry and no return
from one (R272): the next acceptance clears the report (R273). -/
def State.raise (s : State) (e : ErrorCode) : State := s.complete (some e)

/-- PENDING <- none, the start of the engine's step (45_control.md R241). -/
def State.takePending (s : State) : State := { s with pending := none }

/-- The order of the events to come, once one of them has begun (log entry 1). -/
def State.withTurns (s : State) (ts : List Turn) : State := { s with turns := ts }

/-- A write dropped because BUSY = 1: OVR <- 1 (20_memory.md R82). -/
def State.overrun (s : State) : State := { s with ovr := true }

/-- The registers at 0x000, 0x004, … 0x044 (20_memory.md R74). -/
def lowRegs : List Reg :=
  [.cmd, .status, .keyHi, .keyLo, .ktextHi, .ktextLo, .blkHi, .blkLo, .blkLen, .bitres, .fR, .fKHi, .fKLo, .fOut,
    .pinHi, .pinLo, .poutHi, .poutLo]

/-- The register at a byte offset of the window; `none` where the offset is misaligned (20_memory.md R72) or marked
reserved in the map (R73, R74). -/
def regAt (off : Nat) : Option Reg :=
  if off % 4 ≠ 0 then none
  else if off < 0x048 then lowRegs[off / 4]?
  else if off < 0x080 then none
  else if off < 0x0C0 then some (.ptab (Fin.ofNat 16 ((off - 0x080) / 4)))
  else if off < 0x100 then none
  else if off < 0x180 then
    if off % 8 = 0 then some (.skHi (Fin.ofNat 16 ((off - 0x100) / 8)))
    else some (.skLo (Fin.ofNat 16 ((off - 0x100) / 8)))
  else none

/-- `off(reg)`: the offset column of 20_memory.md R74. -/
def Reg.off : Reg → Nat
  | .cmd => 0x000
  | .status => 0x004
  | .keyHi => 0x008
  | .keyLo => 0x00C
  | .ktextHi => 0x010
  | .ktextLo => 0x014
  | .blkHi => 0x018
  | .blkLo => 0x01C
  | .blkLen => 0x020
  | .bitres => 0x024
  | .fR => 0x028
  | .fKHi => 0x02C
  | .fKLo => 0x030
  | .fOut => 0x034
  | .pinHi => 0x038
  | .pinLo => 0x03C
  | .poutHi => 0x040
  | .poutLo => 0x044
  | .ptab w => 0x080 + 4 * w.val
  | .skHi i => 0x100 + 8 * i.val
  | .skLo i => 0x104 + 8 * i.val

/-- The access column of 20_memory.md R74. -/
def Reg.access : Reg → Access
  | .cmd => .wo
  | .status => .w1c
  | .bitres | .fOut | .skHi _ | .skLo _ => .ro
  | .keyHi | .keyLo | .ktextHi | .ktextLo | .blkHi | .blkLo | .blkLen | .fR | .fKHi | .fKLo
  | .pinHi | .pinLo | .poutHi | .poutLo | .ptab _ => .rw

/-- Word PTABw: its first entry, PTAB[4w+1], in the most significant byte (20_memory.md R76). -/
def readPtab (t : Vector Byte 64) (w : Fin 16) : Word :=
  t[4 * w.val] ++ t[4 * w.val + 1] ++ t[4 * w.val + 2] ++ t[4 * w.val + 3]

/-- "A write sets all four entries" (20_memory.md R76). -/
def writePtab (t : Vector Byte 64) (w : Fin 16) (v : Word) : Vector Byte 64 :=
  (((t.set (4 * w.val) (v.extractLsb' 24 8)).set (4 * w.val + 1) (v.extractLsb' 16 8)).set
    (4 * w.val + 2) (v.extractLsb' 8 8)).set (4 * w.val + 3) (v.extractLsb' 0 8)

/-- The value a read of a register returns (20_memory.md R74 to R78): CMD and reserved bits read 0. -/
def State.readReg (s : State) : Reg → Word
  | .cmd => 0
  | .status => s.statusWord
  | .keyHi => hi64 s.key
  | .keyLo => lo64 s.key
  | .ktextHi => hi64 s.ktext
  | .ktextLo => lo64 s.ktext
  | .blkHi => hi64 s.blk
  | .blkLo => lo64 s.blk
  | .blkLen => s.blkLen.setWidth 32
  | .bitres => (BitVec.ofBool s.bitres).setWidth 32
  | .fR => s.fR
  | .fKHi => hi48 s.fK
  | .fKLo => lo48 s.fK
  | .fOut => s.fOut
  | .pinHi => hi64 s.pin
  | .pinLo => lo64 s.pin
  | .poutHi => hi64 s.pout
  | .poutLo => lo64 s.pout
  | .ptab w => readPtab s.ptab w
  | .skHi i => hi48 s.sk[i]
  | .skLo i => lo48 s.sk[i]

/-- BLK_LEN takes 0..8; a write whose `[3:0]` is 9..15 "leaves LEN unchanged" (10_state.md R35). -/
def writeLen (old : BitVec 4) (v : Word) : BitVec 4 :=
  if (v.setWidth 4).toNat ≤ 8 then v.setWidth 4 else old

/-- A write of a register while BUSY = 0 (20_memory.md R75, R76, R79, R80, R82): CMD accepts, a read-only register
ignores. STATUS is written by `State.writeStatus`. -/
def State.writeReg (s : State) (r : Reg) (v : Word) : State :=
  match r with
  | .cmd => s.accept v
  | .status => s
  | .keyHi => { s with key := setHi64 s.key v }
  | .keyLo => { s with key := setLo64 s.key v }
  | .ktextHi => { s with ktext := setHi64 s.ktext v }
  | .ktextLo => { s with ktext := setLo64 s.ktext v }
  | .blkHi => { s with blk := setHi64 s.blk v }
  | .blkLo => { s with blk := setLo64 s.blk v }
  | .blkLen => { s with blkLen := writeLen s.blkLen v }
  | .bitres => s
  | .fR => { s with fR := v }
  | .fKHi => { s with fK := setHi48 s.fK v }
  | .fKLo => { s with fK := setLo48 s.fK v }
  | .fOut => s
  | .pinHi => { s with pin := setHi64 s.pin v }
  | .pinLo => { s with pin := setLo64 s.pin v }
  | .poutHi => { s with pout := setHi64 s.pout v }
  | .poutLo => { s with pout := setLo64 s.pout v }
  | .ptab w => { s with ptab := writePtab s.ptab w v }
  | .skHi _ => s
  | .skLo _ => s

/-- A write of STATUS, at any time: OVR <- 0 if bit 4 is 1, all other bits ignored (20_memory.md R81). -/
def State.writeStatus (s : State) (v : Word) : State :=
  if v.getLsbD 4 then { s with ovr := false } else s

/-- The register an access reaches, or `none` where it gets SLVERR: wrong width, misaligned or reserved offset
(20_memory.md R71 to R73). -/
def target (off : Nat) (w : Width) : Option Reg := if w = .w32 then regAt off else none

/-- `HostWrite(off, v)` of 20_memory.md R82: the state after it and the response. -/
def State.hostWrite (s : State) (off : Nat) (w : Width) (v : Word) : State × Resp :=
  match target off w with
  | none => (s, .slverr)
  | some r =>
    if r = .status then (s.writeStatus v, .okay)
    else if s.busy then (s.overrun, .okay)
    else (s.writeReg r v, .okay)

/-- `HostRead(off)` of 20_memory.md R82: the response and the data. Reads have no side effect (R77), so it answers no
state. -/
def State.hostRead (s : State) (off : Nat) (w : Width) : Resp × Word :=
  match target off w with
  | none => (.slverr, 0)
  | some r => (.okay, s.readReg r)

/-- A bus write at a window offset, as the bus sees it: an offset past the window is not the engine's (20_memory.md
R70), which neither acts nor answers. -/
def State.busWrite (s : State) (off : Nat) (w : Width) (v : Word) : State × Option Response :=
  if off < Config.windowBytes then
    ((s.hostWrite off w v).1, some ⟨(s.hostWrite off w v).2, none⟩)
  else (s, none)

/-- A bus read at a window offset, as the bus sees it. -/
def State.busRead (s : State) (off : Nat) (w : Width) : Option Response :=
  if off < Config.windowBytes then
    some ⟨(s.hostRead off w).1, some (s.hostRead off w).2⟩
  else none

/-- "an access to `DES_BASE + off` is routed to the engine by the platform, and addresses outside the window are not
the engine's" (20_memory.md R70): the window offset of a platform address. -/
def route (addr : Nat) : Option Nat :=
  if Config.desBase ≤ addr ∧ addr < Config.desBase + Config.windowBytes then some (addr - Config.desBase) else none

/-- `MemWrite(addr, …)` of 00_scope.md R11, at a platform address. -/
def State.memWrite (s : State) (addr : Nat) (w : Width) (v : Word) : State × Option Response :=
  match route addr with
  | some off => s.busWrite off w v
  | none => (s, none)

/-- `MemRead(addr, …)` of 00_scope.md R11, at a platform address. -/
def State.memRead (s : State) (addr : Nat) (w : Width) : Option Response :=
  match route addr with
  | some off => s.busRead off w
  | none => none

end Sys2Proof.Machine
end

