-- ==== Sys2Proof/Machine/BitPlane.lean ====
section
/-! DEFINITION. The bit-plane utilities: GETBIT, PUTBIT, PERM and the ROM permutations (40_bitplane.md). -/

namespace Sys2Proof.Machine

/-- GETBIT: BIT_RANGE if i is not in 1..64, else BITRES <- the plane's bit i (40_bitplane.md R131). -/
def execGetbit (p : Plane) (i : Nat) (s : State) : Result :=
  if legalBit i then .next ({ s with bitres := desBit (s.plane p) i }.complete none)
  else .next (s.raise .bitRange)

/-- PUTBIT: BIT_RANGE if i is not in 1..64, else the plane's bit i <- v (40_bitplane.md R132). -/
def execPutbit (p : Plane) (i : Nat) (v : Bool) (s : State) : Result :=
  if legalBit i then .next ((s.setPlane p (putDesBit (s.plane p) i v)).complete none)
  else .next (s.raise .bitRange)

/-- `nb = ⌈n / 8⌉`, the output bytes touched (40_bitplane.md R134). -/
def bytesTouched (n : Nat) : Nat := (n + 7) / 8

/-- The POUT that `PermPlane(T, n)` leaves (40_bitplane.md R134): bit j is `PIN⟨T[j]⟩` for j ≤ n, 0 up to the end of
the last output byte, and kept past it. -/
def permPlane (T : List Nat) (n : Nat) (pin pout : Block) : Block :=
  ofDesBits 64 fun j =>
    if j ≤ n then desBit pin (entry T j) else if j ≤ 8 * bytesTouched n then false else desBit pout j

/-- The one effect of every PERM command: POUT <- PermPlane(T, n), and the completion (40_bitplane.md R134). -/
def State.permute (s : State) (T : List Nat) (n : Nat) : State :=
  { s with pout := permPlane T n s.pin s.pout }.complete none

/-- The checks of PERM: n ≤ 64, and the first n entries of PTAB in 1..64 (40_bitplane.md R133). -/
def State.permLegal (s : State) (n : Nat) : Bool := n ≤ 64 && (s.userTable.take n).all legalBit

/-- PERM with the user table (40_bitplane.md R133). -/
def execPerm (n : Nat) (s : State) : Result :=
  if s.permLegal n then .next (s.permute s.userTable n) else .next (s.raise .permRange)

/-- PERM.IP: `PermPlane(IP, 64)` (40_bitplane.md R135). -/
def execPermIp (s : State) : Result := .next (s.permute tableIP 64)

/-- PERM.FP: `PermPlane(FP, 64)` (40_bitplane.md R136). -/
def execPermFp (s : State) : Result := .next (s.permute tableFP 64)

/-- PERM.E: `PermPlane(E, 48)` (40_bitplane.md R137). -/
def execPermE (s : State) : Result := .next (s.permute tableE 48)

/-- PERM.P: `PermPlane(P, 32)` (40_bitplane.md R138). -/
def execPermP (s : State) : Result := .next (s.permute tableP 32)

/-- PERM.PC1: `PermPlane(PC1, 56)` (40_bitplane.md R139). -/
def execPermPc1 (s : State) : Result := .next (s.permute tablePC1 56)

/-- PERM.PC2: `PermPlane(PC2, 48)` (40_bitplane.md R140). -/
def execPermPc2 (s : State) : Result := .next (s.permute tablePC2 48)

end Sys2Proof.Machine
end

