-- ==== Sys2Proof/Machine/Cipher.lean ====
section
/-! DEFINITION. The Feistel round function and the block cipher: FFUNC, ENC, DEC (43_feistel_cipher.md). -/

namespace Sys2Proof.Machine

/-- `X = Perm(E, R) ⊕ K` (43_feistel_cipher.md R200). -/
def mixKey (R : Half) (K : Subkey) : BitVec 48 := perm 48 tableE R ^^^ K

/-- `Bⱼ = X⟨6j−5 .. 6j⟩` for j = 1..8 (43_feistel_cipher.md R201). -/
def group (X : BitVec 48) (j : Nat) : BitVec 6 := X.extractLsb' (48 - 6 * j) 6

/-- `Y = S1(B₁) ‖ S2(B₂) ‖ … ‖ S8(B₈)` (43_feistel_cipher.md R202). -/
def substitute (X : BitVec 48) : BitVec 32 :=
  sboxAt 1 (group X 1) ++ sboxAt 2 (group X 2) ++ sboxAt 3 (group X 3) ++ sboxAt 4 (group X 4) ++
    sboxAt 5 (group X 5) ++ sboxAt 6 (group X 6) ++ sboxAt 7 (group X 7) ++ sboxAt 8 (group X 8)

/-- `f(R, K) = Perm(P, Y)` (43_feistel_cipher.md R203). -/
def feistel (R : Half) (K : Subkey) : Half := perm 32 tableP (substitute (mixKey R K))

/-- The rounds: `Lᵢ = Rᵢ₋₁`, `Rᵢ = Lᵢ₋₁ ⊕ f(Rᵢ₋₁, k[i])`, over the ordered round keys (43_feistel_cipher.md R206). -/
def roundsFrom : List Subkey → Half × Half → Half × Half
  | [], lr => lr
  | k :: ks, lr => roundsFrom ks (lr.2, lr.1 ^^^ feistel lr.2 k)

/-- `(L₀, R₀)`: the halves of `Perm(IP, B)` (43_feistel_cipher.md R206). -/
def splitIP (B : Block) : Half × Half :=
  let lr : Block := perm 64 tableIP B
  (lr.extractLsb' 32 32, lr.extractLsb' 0 32)

/-- `Perm(FP, R ‖ L)`: the unswapped output (43_feistel_cipher.md R206, R207). -/
def joinFP (lr : Half × Half) : Block := perm 64 tableFP (lr.2 ++ lr.1)

/-- `DESCORE(B, k[1..16])`, for a list of round keys in order (43_feistel_cipher.md R206). -/
def descore (B : Block) (ks : List Subkey) : Block := joinFP (roundsFrom ks (splitIP B))

/-- FFUNC: F_OUT <- f(F_R, F_K) (43_feistel_cipher.md R205). -/
def execFfunc (s : State) : Result := .next ({ s with fOut := feistel s.fR s.fK }.complete none)

/-- ENC: NO_SCHEDULE if KSV = 0; else BLK <- DESCORE(BLK, SK[1], …, SK[16]) (43_feistel_cipher.md R208). -/
def execEnc (s : State) : Result :=
  if s.ksv then .next ({ s with blk := descore s.blk s.sk.toList }.complete none)
  else .next (s.raise .noSchedule)

/-- DEC: NO_SCHEDULE if KSV = 0; else BLK <- DESCORE(BLK, SK[16], …, SK[1]) (43_feistel_cipher.md R209). -/
def execDec (s : State) : Result :=
  if s.ksv then .next ({ s with blk := descore s.blk s.sk.toList.reverse }.complete none)
  else .next (s.raise .noSchedule)

end Sys2Proof.Machine
end

