-- ==== Sys2Proof/Machine/Control.lean ====
section
/-! DEFINITION. Command control: NOP (45_control.md). -/

namespace Sys2Proof.Machine

/-- NOP: nothing but the completion (45_control.md R244). -/
def execNop (s : State) : Result := .next (s.complete none)

end Sys2Proof.Machine
end

