-- ==== Sys2Proof/Machine/KeyPrep.lean ====
section
/-! DEFINITION. Key preparation: KEYPREP (44_key_preparation.md). -/

namespace Sys2Proof.Machine

/-- "m = the least k in 0..7 with t[k] = 0x00, or 8 if there is none" (44_key_preparation.md R230). -/
def firstNul (text : Block) : Nat := ((List.range 8).find? fun k => byteOf text k == 0).getD 8

/-- The key of a text: the bytes before the first NUL, then zeros (44_key_preparation.md R230). -/
def keyOfText (text : Block) : Block := ofBytes fun k => if k < firstNul text then byteOf text k else 0

/-- KEYPREP (44_key_preparation.md R230). -/
def execKeyprep (s : State) : Result := .next ({ s with key := keyOfText s.ktext }.complete none)

end Sys2Proof.Machine
end

