-- ==== Sys2Proof/Machine/KeySchedule.lean ====
section
/-! DEFINITION. The key schedule: KEYSCHED (42_key_schedule.md). -/

namespace Sys2Proof.Machine

/-- `SHIFTS[i]` for i = 1..16 (41_tables.md R166). -/
def shiftAmount (i : Nat) : Nat := entry shiftTable i

/-- `(C₀, D₀)`: the first and the last 28 bits of `Perm(PC1, K)` (42_key_schedule.md R181). -/
def splitPC1 (K : Block) : KeyHalf × KeyHalf :=
  let cd : BitVec 56 := perm 56 tablePC1 K
  (cd.extractLsb' 28 28, cd.extractLsb' 0 28)

/-- `(Cᵢ, Dᵢ)`: each half of round i−1 rotated by SHIFTS[i] (42_key_schedule.md R181). -/
def halves (K : Block) : Nat → KeyHalf × KeyHalf
  | 0 => splitPC1 K
  | i + 1 => (rotl28 (halves K i).1 (shiftAmount (i + 1)), rotl28 (halves K i).2 (shiftAmount (i + 1)))

/-- `KS(K)[i] = Perm(PC2, Cᵢ ‖ Dᵢ)` (42_key_schedule.md R181). -/
def subkey (K : Block) (i : Nat) : Subkey := perm 48 tablePC2 ((halves K i).1 ++ (halves K i).2)

/-- `KS(K)[1..16]` (42_key_schedule.md R181, R182). -/
def schedule (K : Block) : Vector Subkey 16 := Vector.ofFn fun i => subkey K (i.val + 1)

/-- KEYSCHED: SK[i] <- KS(KEY)[i] for all i, KSV <- 1 (42_key_schedule.md R180). -/
def execKeysched (s : State) : Result := .next ({ s with sk := schedule s.key, ksv := true }.complete none)

end Sys2Proof.Machine
end

