-- ==== Sys2Proof/Machine/Dispatch.lean ====
section
/-! DEFINITION. One arm per instruction. -/

namespace Sys2Proof.Machine

def exec (i : Instr) (s : State) : Host.Outcome State Fault Refusal :=
  match i with
  | .nop => Sys2Proof.Machine.execNop s
  | .keyprep => Sys2Proof.Machine.execKeyprep s
  | .keysched => Sys2Proof.Machine.execKeysched s
  | .enc => Sys2Proof.Machine.execEnc s
  | .dec => Sys2Proof.Machine.execDec s
  | .ffunc => Sys2Proof.Machine.execFfunc s
  | .getbit plane idx => Sys2Proof.Machine.execGetbit plane idx s
  | .putbit plane idx v => Sys2Proof.Machine.execPutbit plane idx v s
  | .perm n => Sys2Proof.Machine.execPerm n s
  | .permIp => Sys2Proof.Machine.execPermIp s
  | .permFp => Sys2Proof.Machine.execPermFp s
  | .permE => Sys2Proof.Machine.execPermE s
  | .permP => Sys2Proof.Machine.execPermP s
  | .permPc1 => Sys2Proof.Machine.execPermPc1 s
  | .permPc2 => Sys2Proof.Machine.execPermPc2 s

end Sys2Proof.Machine
end

