-- ==== Sys2Proof/Machine/EngineAgent.lean ====
section
/-! DEFINITION. The engine's step and the reset event. -/

namespace Sys2Proof.Machine

/-- `step()` of 45_control.md R241 on the pending word `c`: PENDING <- none, decode, then ILLEGAL_CMD or the command's
execution, whose meaning ends in the completion (R242). -/
def State.runWord (s : State) (c : Word) : Result :=
  match decode c with
  | none => .next (s.takePending.raise .illegalCmd)
  | some i => exec i s.takePending

/-- The engine's turn: "When `PENDING = none` the engine does nothing" (45_control.md R246). -/
def State.engineTurn (s : State) : Result :=
  match s.pending with
  | none => .next s
  | some c => s.runWord c

/-- The reset event: every engine register takes its reset value and a pending command is discarded
(70_reset_and_hazards.md R290, R291). The host's own state, which is not the engine's, is kept (log entry 5). -/
def State.resetTurn (s : State) : State :=
  { State.reset with program := s.program, hostPc := s.hostPc, response := s.response, turns := s.turns }

end Sys2Proof.Machine
end

