-- ==== Sys2Proof/Machine/HostAgent.lean ====
section
/-! DEFINITION. The host agent: one statement of its program is one turn, and one bus access (30_encoding.md R110). -/

namespace Sys2Proof.Machine

/-- The host is past a statement: its position, and the bus's answer to the access. -/
def State.advanceHost (s : State) (pc : Nat) (r : Option Response) : State := { s with hostPc := pc, response := r }

/-- One host statement (30_encoding.md R110). -/
def State.hostStmt (s : State) : HostStmt → State
  | .write off w v => (s.busWrite off w v).1.advanceHost (s.hostPc + 1) (s.busWrite off w v).2
  | .read off w => s.advanceHost (s.hostPc + 1) (s.busRead off w)
  | .bnz r mask t =>
    s.advanceHost (if s.readReg r &&& mask ≠ 0 then t else s.hostPc + 1) (s.busRead r.off .w32)

/-- The host's turn: its next statement, or nothing when its program is at an end. -/
def State.hostTurn (s : State) : State :=
  match s.program[s.hostPc]? with
  | some st => s.hostStmt st
  | none => s

end Sys2Proof.Machine
end

