-- ==== Sys2Proof/Machine/Step.lean ====
section
/-! DEFINITION. One step of the machine: the event of the agent whose turn it is. -/

namespace Sys2Proof.Machine

/-- One event. The head of `turns` says whose it is; where `turns` is empty a pending command is executed, and with
none the host goes on (20_memory.md R87, R88, 45_control.md R246; log entry 1). -/
def step (s : State) : Host.Outcome State Fault Refusal :=
  match s.turns with
  | [] => if s.pending.isSome then s.engineTurn else .next s.hostTurn
  | .engine :: ts => (s.withTurns ts).engineTurn
  | .host :: ts => .next (s.withTurns ts).hostTurn
  | .reset :: ts => .next (s.withTurns ts).resetTurn

/-- `s` with the command word `w` accepted (45_control.md R240) and the engine to move next: the very next step
executes it. It stands for the host's write of `w` to CMD (log entry 4). -/
def State.withFetchWord (s : State) (nbits w : Nat) : State :=
  (s.accept (BitVec.ofNat 32 (w % 2 ^ nbits))).withTurns (.engine :: s.turns)

end Sys2Proof.Machine
end

