-- ==== Sys2Proof/Machine/Asm.lean ====
section
/-! DEFINITION. The written form of commands and host programs: 30_encoding.md R109 to R112. A line is a list of
characters; white space, labels and refusals as log entry 9 says. -/

namespace Sys2Proof.Machine

/-- A source line: a host statement of 30_encoding.md R110 or a pseudo-instruction of R112. -/
inductive Source where
  | wr (r : Reg) (v : Word)
  | rd (r : Reg)
  | label (name : List Char)
  | bnz (r : Reg) (mask : Word) (name : List Char)
  | issue (i : Instr)
  | wait
  | execute (i : Instr)
  | ld64 (hi lo : Reg) (v : Block)
  | ld48 (v : Subkey)
  | ldtab (ts : List Nat)
deriving DecidableEq, Repr

/-- The text without the spaces around it. -/
def trim (cs : List Char) : List Char :=
  (((cs.dropWhile (· == ' ')).reverse).dropWhile (· == ' ')).reverse

/-- The parts of a text between the characters `c`. -/
def splitAtChar (c : Char) : List Char → List (List Char)
  | [] => [[]]
  | x :: xs =>
    match splitAtChar c xs with
    | [] => [[x]]
    | y :: ys => if x = c then [] :: y :: ys else (x :: y) :: ys

/-- The first word of a line. -/
def headWord (line : List Char) : List Char := (trim line).takeWhile (· != ' ')

/-- What follows the first word of a line. -/
def tailText (line : List Char) : List Char := trim ((trim line).dropWhile (· != ' '))

/-- "operands are separated by commas" (30_encoding.md R109). -/
def operandsOf (text : List Char) : List (List Char) :=
  if trim text = [] then [] else (splitAtChar ',' text).map trim

/-- The value of a digit in a base. -/
def digitVal (base : Nat) (c : Char) : Option Nat :=
  let n := c.toNat
  let v := if 48 ≤ n ∧ n ≤ 57 then n - 48 else if 97 ≤ n ∧ n ≤ 102 then n - 87
    else if 65 ≤ n ∧ n ≤ 70 then n - 55 else base
  if v < base then some v else none

/-- A run of digits, most significant first, after the value `acc`. -/
def digitsVal (base acc : Nat) : List Char → Option Nat
  | [] => some acc
  | c :: cs => (digitVal base c).bind fun v => digitsVal base (acc * base + v) cs

/-- "Numbers are decimal or `0x` hexadecimal" (30_encoding.md R109). -/
def parseNat : List Char → Option Nat
  | [] => none
  | '0' :: 'x' :: c :: cs => digitsVal 16 0 (c :: cs)
  | c :: cs => digitsVal 10 0 (c :: cs)

/-- A number below `2^w`; a larger one is refused "rather than truncate it" (30_encoding.md R109). -/
def parseBits (w : Nat) (cs : List Char) : Option (BitVec w) :=
  (parseNat cs).bind fun n => if n < 2 ^ w then some (BitVec.ofNat w n) else none

/-- `<plane>`: PIN or POUT (30_encoding.md R109). -/
def parsePlane (cs : List Char) : Option Plane :=
  if cs = "PIN".toList then some .pin else if cs = "POUT".toList then some .pout else none

/-- The commands without operands (30_encoding.md R109). -/
def plainCommands : List (List Char × Instr) :=
  [("NOP".toList, .nop), ("KEYPREP".toList, .keyprep), ("KEYSCHED".toList, .keysched), ("ENC".toList, .enc),
    ("DEC".toList, .dec), ("FFUNC".toList, .ffunc), ("PERM.IP".toList, .permIp), ("PERM.FP".toList, .permFp),
    ("PERM.E".toList, .permE), ("PERM.P".toList, .permP), ("PERM.PC1".toList, .permPc1),
    ("PERM.PC2".toList, .permPc2)]

/-- A command of 30_encoding.md R109, before the check of its operands' width. -/
def readInstr (name : List Char) (ops : List (List Char)) : Option Instr :=
  match ops with
  | [] => (plainCommands.find? (·.1 == name)).map (·.2)
  | [n] => if name = "PERM".toList then (parseNat n).map .perm else none
  | [p, i] =>
    if name = "GETBIT".toList then (parsePlane p).bind fun p => (parseNat i).map (.getbit p) else none
  | [p, i, v] =>
    if name = "PUTBIT".toList then
      (parsePlane p).bind fun p => (parseNat i).bind fun i =>
        (parseBits 1 v).map fun v => .putbit p i (v.getLsbD 0)
    else none
  | _ => none

/-- A command line; "An assembler refuses an operand outside the field's width" (30_encoding.md R109). -/
def parseInstr (line : List Char) : Option Instr :=
  (readInstr (headWord line) (operandsOf (tailText line))).bind fun i => if i.wf then some i else none

/-- The command word of a command line (30_encoding.md R109). -/
def assembleCommand (line : List Char) : Option Word := (parseInstr line).map encode

/-- A decimal number below 20, as the register names write it. -/
def decimal (n : Nat) : List Char :=
  if n < 10 then [Nat.digitChar n] else ['1', Nat.digitChar (n - 10)]

/-- The register names of 30_encoding.md R111. -/
def Reg.name : Reg → List Char
  | .cmd => "CMD".toList
  | .status => "STATUS".toList
  | .keyHi => "KEY_HI".toList
  | .keyLo => "KEY_LO".toList
  | .ktextHi => "KTEXT_HI".toList
  | .ktextLo => "KTEXT_LO".toList
  | .blkHi => "BLK_HI".toList
  | .blkLo => "BLK_LO".toList
  | .blkLen => "BLK_LEN".toList
  | .bitres => "BITRES".toList
  | .fR => "F_R".toList
  | .fKHi => "F_K_HI".toList
  | .fKLo => "F_K_LO".toList
  | .fOut => "F_OUT".toList
  | .pinHi => "PIN_HI".toList
  | .pinLo => "PIN_LO".toList
  | .poutHi => "POUT_HI".toList
  | .poutLo => "POUT_LO".toList
  | .ptab w => "PTAB".toList ++ decimal w.val
  | .skHi i => "SK".toList ++ decimal (i.val + 1) ++ "_HI".toList
  | .skLo i => "SK".toList ++ decimal (i.val + 1) ++ "_LO".toList

/-- Every register of the window (20_memory.md R74). -/
def allRegs : List Reg :=
  lowRegs ++ (List.finRange 16).map .ptab ++ (List.finRange 16).map .skHi ++ (List.finRange 16).map .skLo

/-- `<reg>` (30_encoding.md R111). -/
def parseReg (cs : List Char) : Option Reg := allRegs.find? (·.name == cs)

/-- The `<X>` of LD64: KEY, KTEXT, BLK, PIN, POUT (30_encoding.md R112), as its two words. -/
def parsePair (cs : List Char) : Option (Reg × Reg) :=
  if cs = "KEY".toList then some (.keyHi, .keyLo)
  else if cs = "KTEXT".toList then some (.ktextHi, .ktextLo)
  else if cs = "BLK".toList then some (.blkHi, .blkLo)
  else if cs = "PIN".toList then some (.pinHi, .pinLo)
  else if cs = "POUT".toList then some (.poutHi, .poutLo)
  else none

/-- The values of a list of texts, if all are numbers below 256 (an entry of PTAB has 8 bits, 10_state.md R41). -/
def parseEntries : List (List Char) → Option (List Nat)
  | [] => some []
  | t :: ts => (parseBits 8 t).bind fun v => (parseEntries ts).map (v.toNat :: ·)

/-- The host statements with operands (30_encoding.md R110, R112). -/
def parseStmt (name : List Char) (ops : List (List Char)) : Option Source :=
  match ops with
  | [] => if name = "WAIT".toList then some .wait else none
  | [r] => if name = "RD".toList then (parseReg r).map .rd else none
  | [r, v] =>
    if name = "WR".toList then (parseReg r).bind fun r => (parseBits 32 v).map (.wr r)
    else if name = "LD64".toList then (parsePair r).bind fun x => (parseBits 64 v).map (.ld64 x.1 x.2)
    else if name = "LD48".toList ∧ r = "F_K".toList then (parseBits 48 v).map .ld48
    else none
  | [r, m, l] =>
    if name = "BNZ".toList then (parseReg r).bind fun r => (parseBits 32 m).map fun m => .bnz r m l else none
  | _ => none

/-- One statement of a host program (30_encoding.md R110, R112). -/
def parseStatement (text : List Char) : Option Source :=
  if headWord text = "ISSUE".toList then (parseInstr (tailText text)).map .issue
  else if headWord text = "EXEC".toList then (parseInstr (tailText text)).map .execute
  else if headWord text = "LDTAB".toList then
    (parseEntries (operandsOf (tailText text))).bind fun ts => if ts.length ≤ 64 then some (.ldtab ts) else none
  else parseStmt (headWord text) (operandsOf (tailText text))

/-- What stands on a line after its label: nothing, or one statement. -/
def parseRest (text : List Char) : Option (List Source) :=
  if trim text = [] then some [] else (parseStatement text).map ([·])

/-- One line, up to a `;`: a label with its colon, a statement, both, or neither (30_encoding.md R110; the form of
95_test_vectors.md P6; log entry 9). -/
def parseLine (line : List Char) : Option (List Source) :=
  match splitAtChar ':' (line.takeWhile (· != ';')) with
  | [text] => parseRest text
  | [l, text] =>
    if trim l = [] ∨ ' ' ∈ trim l then none else (parseRest text).map (.label (trim l) :: ·)
  | _ => none

/-- How many host statements a line expands to (30_encoding.md R112). A label is a position, no statement. -/
def Source.size : Source → Nat
  | .label _ => 0
  | .wr _ _ | .rd _ | .bnz _ _ _ | .issue _ | .wait => 1
  | .execute _ | .ld64 _ _ _ | .ld48 _ => 2
  | .ldtab _ => 16

/-- The position of every label, for a program that starts at position `p`. -/
def labelsFrom (p : Nat) : List Source → List (List Char × Nat)
  | [] => []
  | .label l :: ss => (l, p) :: labelsFrom p ss
  | s :: ss => labelsFrom (p + s.size) ss

/-- `WR <reg>, <imm32>`: `MemWrite(DES_BASE + off(reg), 4, imm32)` (30_encoding.md R110). -/
def wrStmt (r : Reg) (v : Word) : HostStmt := .write r.off .w32 v

/-- `WAIT` at position `p`: `w: BNZ STATUS, 0x1, w` (30_encoding.md R112). -/
def waitStmt (p : Nat) : HostStmt := .bnz .status 1 p

/-- Word PTABw of LDTAB: "`PTAB[k] = tk` for k ≤ m and 0 for k > m" (30_encoding.md R112, 20_memory.md R76). -/
def tableWord (ts : List Nat) (w : Fin 16) : Word :=
  BitVec.ofNat 8 (ts.getD (4 * w.val) 0) ++ BitVec.ofNat 8 (ts.getD (4 * w.val + 1) 0) ++
    BitVec.ofNat 8 (ts.getD (4 * w.val + 2) 0) ++ BitVec.ofNat 8 (ts.getD (4 * w.val + 3) 0)

/-- The statements of a line at position `p`, with labels resolved (30_encoding.md R110, R112). -/
def Source.expand (labels : List (List Char × Nat)) (p : Nat) : Source → Option (List HostStmt)
  | .wr r v => some [wrStmt r v]
  | .rd r => some [.read r.off .w32]
  | .label _ => some []
  | .bnz r m l => ((labels.find? (·.1 == l)).map (·.2)).map fun t => [.bnz r m t]
  | .issue i => some [wrStmt .cmd (encode i)]
  | .wait => some [waitStmt p]
  | .execute i => some [wrStmt .cmd (encode i), waitStmt (p + 1)]
  | .ld64 hi lo v => some [wrStmt hi (hi64 v), wrStmt lo (lo64 v)]
  | .ld48 v => some [wrStmt .fKHi (hi48 v), wrStmt .fKLo (lo48 v)]
  | .ldtab ts => some ((List.finRange 16).map fun w => wrStmt (.ptab w) (tableWord ts w))

/-- The statements of a program from position `p` on. -/
def expandFrom (labels : List (List Char × Nat)) (p : Nat) : List Source → Option (List HostStmt)
  | [] => some []
  | s :: ss => (s.expand labels p).bind fun hs => (expandFrom labels (p + s.size) ss).map (hs ++ ·)

/-- The lines of a program, each parsed. -/
def parseLines : List (List Char) → Option (List Source)
  | [] => some []
  | l :: ls => (parseLine l).bind fun s => (parseLines ls).map (s ++ ·)

/-- A host program (30_encoding.md R110 to R112). A label defined twice is refused (log entry 9). -/
def assemble (lines : List (List Char)) : Option (List HostStmt) :=
  (parseLines lines).bind fun ss =>
    if ((labelsFrom 0 ss).map (·.1)).Nodup then expandFrom (labelsFrom 0 ss) 0 ss else none

end Sys2Proof.Machine
end

