-- ==== Sys2Proof/Safety.lean ====
section
/-! DEFINITION. What counts as a safe state and a safe run, in the terms the claims use. -/

namespace Sys2Proof.Machine

/-- The STATUS values of 10_state.md R45 and R44: no code without an error, a code 1..4 with one, and while BUSY no
report of an earlier command. -/
abbrev State.StatusLegal (s : State) : Prop :=
  (s.err = false → s.ecode = 0) ∧ (s.err = true → 1 ≤ s.ecode.toNat ∧ s.ecode.toNat ≤ 4) ∧
    (s.busy = true → s.done = false ∧ s.err = false ∧ s.ecode = 0)

/-- The invariant of the machine: "`BUSY = 1` exactly when `PENDING ≠ none`" (10_state.md R49), a legal STATUS (R45),
and "a Block's logical length is always in [0,8]" (R35). -/
abbrev State.Inv (s : State) : Prop :=
  s.busy = s.pending.isSome ∧ s.StatusLegal ∧ s.blkLen.toNat ≤ 8

/-- The machine's first `k` steps from `s` (Host/Core.lean). -/
def runSteps (k : Nat) (s : State) : Result := Host.Core.run Sys2Proof.core k s

/-- A run of `k` steps that does not stop: the engine has no trap and "is ready for the next command at once"
(60_exceptions.md R260). -/
def SafeRun (k : Nat) (s : State) : Prop := ∃ t, runSteps k s = .next t

end Sys2Proof.Machine
end

