-- ==== Sys2Proof/Certificates/Slice0/Obligations.lean ====
section
/-! DEFINITION. The statements for the provers. Each docstring names the rule of the spec it formalises, or the log
entry of the model's own choice it is about. -/

open Sys2Proof Sys2Proof.Machine

/-! ### Encoding -/

/-- R105, R109: no bit of an encoding is dropped, for every instruction and every operand value the field admits. -/
def Obligations.DecodeEncodeRoundTrip : Prop :=
  ∀ i : Instr, i.wf = true → decode (encode i) = some i

/-- R101, R106: a word that decodes is the encoding of what it decodes to, so every reserved or unused bit of it is 0. -/
def Obligations.EncodingOfDecodedWordIsTheWord : Prop :=
  ∀ (c : Word) (i : Instr), decode c = some i → i.wf = true ∧ encode i = c

/-- R105: "The rows are disjoint: no word matches two rows". -/
def Obligations.OpcodeRowsAreDisjoint : Prop :=
  ∀ (c : Word) (j k : Fin opRows.length),
    opRows[j].hits c = true → opRows[k].hits c = true → j = k

/-- R107, R262: the illegal words, field by field as R107 lists them, and what an accepted one does. -/
def Obligations.IllegalWordsAreThoseListed : Prop :=
  (∀ c : Word, decode c = none ↔
    (9 ≤ field c 7 0 ∨
      (field c 7 0 ≤ 5 ∧ field c 31 8 ≠ 0) ∨
      (field c 7 0 = 6 ∧ (field c 15 15 ≠ 0 ∨ field c 31 17 ≠ 0)) ∨
      (field c 7 0 = 7 ∧ (field c 15 15 ≠ 0 ∨ field c 31 18 ≠ 0)) ∨
      (field c 7 0 = 8 ∧ field c 23 20 = 0 ∧
        (field c 15 15 ≠ 0 ∨ field c 19 16 ≠ 0 ∨ field c 31 24 ≠ 0)) ∨
      (field c 7 0 = 8 ∧ 1 ≤ field c 23 20 ∧ field c 23 20 ≤ 6 ∧
        (field c 19 8 ≠ 0 ∨ field c 31 24 ≠ 0)) ∨
      (field c 7 0 = 8 ∧ 7 ≤ field c 23 20))) ∧
  (∀ (s : State) (c : Word), s.pending = some c → decode c = none →
    s.engineTurn = .next { s with pending := none, busy := false, done := true, err := true, ecode := 1 })

/-- R105, R109 and the words of 95_test_vectors.md section 2: words of each family, written out, decode to the
instruction they stand for. -/
def Obligations.WrittenWordsDecode : Prop :=
  decode 0b00000000000000000000000000000000 = some .nop ∧
  decode 0b00000000000000000000000000000001 = some .keyprep ∧
  decode 0b00000000000000000000000000000010 = some .keysched ∧
  decode 0b00000000000000000000000000000011 = some .enc ∧
  decode 0b00000000000000000000000000000101 = some .ffunc ∧
  decode 0b00000000000000010000000100000110 = some (.getbit .pout 1) ∧
  decode 0b00000000000000110100000100000111 = some (.putbit .pout 65 true) ∧
  decode 0b00000000000000000000110000001000 = some (.perm 12) ∧
  decode 0b00000000010100000000000000001000 = some .permPc1 ∧
  decode 0b00000000000000101000000000000111 = none

/-- R109: the word of a command line decodes to the very instruction the line's name and operands read as, with no
operand truncated; a line that reads as an instruction with a word is taken, and one with an operand past its field is
refused. `CommandTextAssembles` says what a text reads as. The text's white space is log entry 9's choice. -/
def Obligations.AssembledWordsDecode : Prop :=
  (∀ (line : List Char) (c : Word), assembleCommand line = some c →
    ∃ i, readInstr (headWord line) (operandsOf (tailText line)) = some i ∧ i.wf = true ∧
      decode c = some i ∧ encode i = c) ∧
  (∀ (line : List Char) (i : Instr), readInstr (headWord line) (operandsOf (tailText line)) = some i →
    (i.wf = true → ∃ c, assembleCommand line = some c ∧ decode c = some i) ∧
    (i.wf = false → assembleCommand line = none))

/-- R109: the written form of every command and its word, with each number in decimal or in `0x` hexadecimal; an index
or count above 127 and a bit above 1 are refused. One blank after the name and one after a comma is log entry 9's
form. -/
def Obligations.CommandTextAssembles : Prop :=
  (["NOP", "KEYPREP", "KEYSCHED", "ENC", "DEC", "FFUNC", "PERM.IP", "PERM.FP", "PERM.E", "PERM.P", "PERM.PC1",
      "PERM.PC2"].map fun text => assembleCommand text.toList) =
    [some 0x00000000, some 0x00000001, some 0x00000002, some 0x00000003, some 0x00000004, some 0x00000005,
      some 0x00100008, some 0x00200008, some 0x00300008, some 0x00400008, some 0x00500008, some 0x00600008] ∧
  ∀ n v : Nat, ∀ num ∈ [Nat.toDigits 10 n, '0' :: 'x' :: Nat.toDigits 16 n],
    ∀ bit ∈ [Nat.toDigits 10 v, '0' :: 'x' :: Nat.toDigits 16 v],
    assembleCommand ("PERM ".toList ++ num) =
      (if n < 128 then some (BitVec.ofNat 32 (0x08 + n * 2 ^ 8)) else none) ∧
    ∀ plane ∈ [("PIN", 0), ("POUT", 1)],
      assembleCommand ("GETBIT ".toList ++ plane.1.toList ++ ", ".toList ++ num) =
        (if n < 128 then some (BitVec.ofNat 32 (0x06 + n * 2 ^ 8 + plane.2 * 2 ^ 16)) else none) ∧
      assembleCommand ("PUTBIT ".toList ++ plane.1.toList ++ ", ".toList ++ num ++ ", ".toList ++ bit) =
        (if n < 128 ∧ v < 2 then some (BitVec.ofNat 32 (0x07 + n * 2 ^ 8 + plane.2 * 2 ^ 16 + v * 2 ^ 17))
         else none)

/-! ### Reset, the step and the invariant -/

/-- R52: the reset values, register by register. -/
def Obligations.ResetLeavesEveryRegisterZero : Prop :=
  State.reset.key = 0 ∧ State.reset.ktext = 0 ∧ State.reset.blk = 0 ∧ State.reset.blkLen = 0 ∧
  (∀ i : Fin 16, State.reset.sk[i] = 0) ∧ State.reset.fR = 0 ∧ State.reset.fK = 0 ∧ State.reset.fOut = 0 ∧
  State.reset.bitres = false ∧ State.reset.pin = 0 ∧ State.reset.pout = 0 ∧
  (∀ k : Fin 64, State.reset.ptab[k] = 0) ∧ State.reset.readReg .status = 0 ∧
  State.reset.busy = false ∧ State.reset.done = false ∧ State.reset.err = false ∧ State.reset.ksv = false ∧
  State.reset.ovr = false ∧ State.reset.ecode = 0 ∧ State.reset.pending = none

/-- R241: a step of the engine on a pending word that decodes is `exec` of the instruction, with PENDING taken. The
order of events (`turns`) is log entry 1's. -/
def Obligations.StepRunsTheDecodedCommand : Prop :=
  ∀ (s : State) (c : Word) (i : Instr), s.pending = some c → decode c = some i →
    (∀ ts, s.turns = .engine :: ts → step s = exec i { s with turns := ts, pending := none }) ∧
    (s.turns = [] → step s = exec i { s with pending := none })

/-- Log entry 4: a word placed by `withFetchWord` is what the very next step runs, as an accepted command (R240). -/
def Obligations.PlacedWordRunsNext : Prop :=
  ∀ (s : State) (w : Nat) (i : Instr), decodeTableWord 32 w = some i →
    step (s.withFetchWord 32 w) =
      exec i { s with busy := true, done := false, err := false, ecode := 0, pending := none }

/-- R246, R260: no state stops the machine. -/
def Obligations.EveryStepAnswersANextState : Prop :=
  ∀ s : State, ∃ t, step s = .next t

/-- R45, R49, R35: BUSY is 1 exactly when a command is pending, STATUS is legal, BLK_LEN is in 0..8: kept by every
step, the host's and the reset's among them. -/
def Obligations.EveryStepKeepsTheInvariant : Prop :=
  ∀ s t : State, s.Inv → step s = .next t → t.Inv

/-- The invariant of `EveryStepKeepsTheInvariant` at reset (R52). -/
def Obligations.ResetMeetsTheInvariant : Prop := State.reset.Inv

/-- R246: a pending command is executed and completes, however many host accesses come first (R88), unless a reset
comes. `turns` is log entry 1's. -/
def Obligations.PendingCommandCompletes : Prop :=
  ∀ (s : State) (c : Word), s.pending = some c → .reset ∉ s.turns →
    ∃ k t, k ≤ s.turns.length + 1 ∧ runSteps k s = .next t ∧
      t.pending = none ∧ t.busy = false ∧ t.done = true

/-- R245, R248, R88: the result of a command does not depend on how many host accesses, of whatever kind, come between
its acceptance and its step. Only OVR and the host's own position and last response can differ. `turns`, the host's
position and its last response are the model's own (log entries 1, 2, 6). -/
def Obligations.LatencyDoesNotChangeTheResult : Prop :=
  ∀ (s : State) (c : Word) (n : Nat) (rest : List Turn), s.busy = true → s.pending = some c →
    ∃ t u : State,
      runSteps (n + 1) { s with turns := List.replicate n .host ++ .engine :: rest } = .next t ∧
      step { s with turns := .engine :: rest } = .next u ∧
      t = { u with ovr := t.ovr, hostPc := t.hostPc, response := t.response }

/-- R36, R37: the schedule and KSV change only by the engine's step on a pending KEYSCHED, which sets KSV, or by reset.
The event's agent is read from `turns` (log entry 1). -/
def Obligations.ScheduleChangesOnlyByKeyschedOrReset : Prop :=
  ∀ s t : State, step s = .next t → (t.sk ≠ s.sk ∨ t.ksv ≠ s.ksv) →
    s.turns.head? = some .reset ∨
    ((s.turns.head? = some .engine ∨ s.turns = []) ∧ t.ksv = true ∧
      ∃ c, s.pending = some c ∧ decode c = some .keysched)

/-- R268: OVR is set only by a host write of a mapped offset other than STATUS while BUSY = 1, and once set it is
cleared only by a host write of STATUS with bit 4 set, or by reset. The event's agent is read from `turns` (log
entry 1). -/
def Obligations.OverrunIsSticky : Prop :=
  ∀ s t : State, step s = .next t →
    (s.ovr = true → t.ovr = false →
      s.turns.head? = some .reset ∨
      ((s.turns.head? = some .host ∨ (s.turns = [] ∧ s.pending = none)) ∧
        ∃ v : Word, v.getLsbD 4 = true ∧ s.program[s.hostPc]? = some (.write 0x004 .w32 v))) ∧
    (s.ovr = false → t.ovr = true →
      s.busy = true ∧ (s.turns.head? = some .host ∨ (s.turns = [] ∧ s.pending = none)) ∧
        ∃ off v, off ≠ 0x004 ∧ (∃ r, regAt off = some r) ∧ s.program[s.hostPc]? = some (.write off .w32 v))

/-- R291, R290: a reset puts every register of the engine back and discards a pending command; the host's own state is
kept (log entry 5). -/
def Obligations.ResetDiscardsEverything : Prop :=
  ∀ (s : State) (ts : List Turn), s.turns = .reset :: ts →
    ∃ t, step s = .next t ∧
      t = { State.reset with
            program := s.program, hostPc := s.hostPc, response := s.response, turns := ts }

/-! ### Rules over all commands -/

/-- R35, R38, R41, R33, R268: no command writes KTEXT, BLK_LEN, F_R, F_K, PTAB or OVR, or accepts a command, or touches
the other agents. -/
def Obligations.NoCommandWritesTheHostsRegisters : Prop :=
  ∀ (i : Instr) (s t : State), exec i s = .next t →
    t.ktext = s.ktext ∧ t.blkLen = s.blkLen ∧ t.fR = s.fR ∧ t.fK = s.fK ∧ t.ptab = s.ptab ∧ t.ovr = s.ovr ∧
    t.pending = s.pending ∧ t.program = s.program ∧ t.hostPc = s.hostPc ∧ t.response = s.response ∧
    t.turns = s.turns

/-- R243: "A command that reports an error writes STATUS (rule R242) and nothing else", a legal word's instruction
and an accepted illegal word alike; PENDING is taken by the step (R241). -/
def Obligations.ErrorsWriteOnlyStatus : Prop :=
  (∀ (i : Instr) (s t : State), exec i s = .next t →
    t.busy = false ∧ t.done = true ∧ (t.err = false → t.ecode = 0) ∧
    (t.err = true → t = { s with busy := false, done := true, err := true, ecode := t.ecode })) ∧
  (∀ (s t : State) (c : Word), s.pending = some c → s.engineTurn = .next t →
    t.pending = none ∧ t.busy = false ∧ t.done = true ∧ (t.err = false → t.ecode = 0) ∧
    (t.err = true →
      t = { s with pending := none, busy := false, done := true, err := true, ecode := t.ecode }))

/-- R261, R262 to R265: each code is reported by its commands on its cause, and by no other; 5..15 never. -/
def Obligations.ErrorCodesBelongToTheirCommands : Prop :=
  ∀ (s t : State) (c : Word), s.pending = some c → s.engineTurn = .next t →
    (t.err = true ↔ t.ecode ≠ 0) ∧
    (t.ecode = 1 ↔ decode c = none) ∧
    (t.ecode = 2 ↔ ∃ p n, (decode c = some (.getbit p n) ∨ ∃ v, decode c = some (.putbit p n v)) ∧
      (n = 0 ∨ 65 ≤ n)) ∧
    (t.ecode = 3 ↔ ∃ n, decode c = some (.perm n) ∧
      (65 ≤ n ∨ ∃ k : Fin 64, k.val < n ∧ (s.ptab[k].toNat = 0 ∨ 65 ≤ s.ptab[k].toNat))) ∧
    (t.ecode = 4 ↔ (decode c = some .enc ∨ decode c = some .dec) ∧ s.ksv = false) ∧
    t.ecode.toNat ≤ 4

/-- R266: the commands that cannot fail once decoded complete with ERR = 0 from every state. -/
def Obligations.CommandsThatCannotFail : Prop :=
  ∀ i ∈ [Instr.nop, .keyprep, .keysched, .ffunc, .permIp, .permFp, .permE, .permP, .permPc1, .permPc2],
    ∀ s : State, ∃ t, exec i s = .next t ∧ t.busy = false ∧ t.done = true ∧ t.err = false ∧ t.ecode = 0

/-! ### The commands -/

/-- R244: NOP completes and does nothing else. -/
def Obligations.NopOnlyCompletes : Prop :=
  decode 0x00000000 = some .nop ∧
  ∀ s : State, exec .nop s = .next { s with busy := false, done := true, err := false, ecode := 0 }

/-- R230: KEYPREP copies the bytes before the first NUL and zeroes the rest; byte `j` of a register is
`V[63−8j : 56−8j]`. -/
def Obligations.KeyprepCopiesUpToTheFirstNul : Prop :=
  decode 0x00000001 = some .keyprep ∧
  ∀ s : State, ∃ (m : Nat) (k : Block),
    m ≤ 8 ∧
    (∀ j, j < m → s.ktext.extractLsb' (56 - 8 * j) 8 ≠ 0) ∧
    (m < 8 → s.ktext.extractLsb' (56 - 8 * m) 8 = 0) ∧
    (∀ j, j < 8 →
      k.extractLsb' (56 - 8 * j) 8 = if j < m then s.ktext.extractLsb' (56 - 8 * j) 8 else 0) ∧
    exec .keyprep s = .next { s with key := k, busy := false, done := true, err := false, ecode := 0 }

/-- R180, R181: KEYSCHED writes the sixteen subkeys of the recurrence of R181, whichever sequences satisfy it, and
sets KSV. -/
def Obligations.KeyschedComputesTheSchedule : Prop :=
  decode 0x00000002 = some .keysched ∧
  ∀ (s : State) (C D : Nat → KeyHalf),
    (C 0 ++ D 0 : BitVec 56) = perm 56 tablePC1 s.key →
    (∀ i, 1 ≤ i → i ≤ 16 →
      C i = rotl28 (C (i - 1)) (entry shiftTable i) ∧ D i = rotl28 (D (i - 1)) (entry shiftTable i)) →
    ∃ v : Vector Subkey 16,
      (∀ i : Fin 16, v[i] = perm 48 tablePC2 (C (i.val + 1) ++ D (i.val + 1) : BitVec 56)) ∧
      exec .keysched s =
        .next { s with sk := v, ksv := true, busy := false, done := true, err := false, ecode := 0 }

/-- R205, R200 to R203: FFUNC expands F_R, mixes F_K, replaces each 6-bit group by its own S-box and permutes. -/
def Obligations.FfuncEvaluatesTheRoundFunction : Prop :=
  decode 0x00000005 = some .ffunc ∧
  ∀ s : State, ∃ Y : BitVec 32,
    (∀ j : Fin 8, Y.extractLsb' (28 - 4 * j.val) 4 =
      sboxAt (j.val + 1) ((perm 48 tableE s.fR ^^^ s.fK).extractLsb' (42 - 6 * j.val) 6)) ∧
    exec .ffunc s =
      .next { s with fOut := perm 32 tableP Y, busy := false, done := true, err := false, ecode := 0 }

/-- R208, R206: ENC runs the sixteen rounds of R206 with SK[1..16] when KSV = 1, and reports NO_SCHEDULE when it is
0. `feistel` is f of R203, whose value FFUNC's statement gives. -/
def Obligations.EncRunsSixteenRounds : Prop :=
  decode 0x00000003 = some .enc ∧
  (∀ (s : State) (L R : Nat → Half), s.ksv = true →
    (L 0 ++ R 0 : Block) = perm 64 tableIP s.blk →
    (∀ i : Fin 16, L (i.val + 1) = R i.val ∧ R (i.val + 1) = L i.val ^^^ feistel (R i.val) s.sk[i]) →
    exec .enc s =
      .next { s with blk := perm 64 tableFP (R 16 ++ L 16 : Block),
                     busy := false, done := true, err := false, ecode := 0 }) ∧
  (∀ s : State, s.ksv = false →
    exec .enc s = .next { s with busy := false, done := true, err := true, ecode := 4 })

/-- R209, R206: DEC is the same network with SK[17 − i] in round i. -/
def Obligations.DecRunsTheRoundsInReverse : Prop :=
  decode 0x00000004 = some .dec ∧
  (∀ (s : State) (L R : Nat → Half), s.ksv = true →
    (L 0 ++ R 0 : Block) = perm 64 tableIP s.blk →
    (∀ i : Fin 16, L (i.val + 1) = R i.val ∧
      R (i.val + 1) = L i.val ^^^ feistel (R i.val) (s.sk[15 - i.val]'(by omega))) →
    exec .dec s =
      .next { s with blk := perm 64 tableFP (R 16 ++ L 16 : Block),
                     busy := false, done := true, err := false, ecode := 0 }) ∧
  (∀ s : State, s.ksv = false →
    exec .dec s = .next { s with busy := false, done := true, err := true, ecode := 4 })

/-- R131: GETBIT reads "`buffer[(i-1)/8]`'s bit `7-((i-1)%8)`" of the plane, or reports BIT_RANGE. -/
def Obligations.GetbitReadsTheNamedBit : Prop :=
  (∀ (p : Plane) (i : Nat), i < 128 →
    decode (BitVec.ofNat 32 (0x06 + i * 2 ^ 8 + (if p = .pout then 2 ^ 16 else 0))) = some (.getbit p i)) ∧
  ∀ (s : State) (p : Plane) (i : Nat),
    (1 ≤ i → i ≤ 64 → exec (.getbit p i) s =
      .next { s with
        bitres := ((match p with | .pin => s.pin | .pout => s.pout).extractLsb'
          (56 - 8 * ((i - 1) / 8)) 8).getLsbD (7 - (i - 1) % 8),
        busy := false, done := true, err := false, ecode := 0 }) ∧
    (i = 0 ∨ 65 ≤ i → exec (.getbit p i) s =
      .next { s with busy := false, done := true, err := true, ecode := 2 })

/-- R132: PUTBIT writes bit `X[64 − i]` of the plane and no other, or reports BIT_RANGE. -/
def Obligations.PutbitWritesOnlyTheNamedBit : Prop :=
  (∀ (p : Plane) (i : Nat) (v : Bool), i < 128 →
    decode (BitVec.ofNat 32
      (0x07 + i * 2 ^ 8 + (if p = .pout then 2 ^ 16 else 0) + (if v then 2 ^ 17 else 0))) =
        some (.putbit p i v)) ∧
  ∀ (s : State) (p : Plane) (i : Nat) (v : Bool),
    (1 ≤ i → i ≤ 64 → ∃ x : Block,
      (∀ k, k < 64 → x.getLsbD k =
        if k = 64 - i then v else (match p with | .pin => s.pin | .pout => s.pout).getLsbD k) ∧
      exec (.putbit p i v) s =
        match p with
        | .pin => .next { s with pin := x, busy := false, done := true, err := false, ecode := 0 }
        | .pout => .next { s with pout := x, busy := false, done := true, err := false, ecode := 0 }) ∧
    (i = 0 ∨ 65 ≤ i → exec (.putbit p i v) s =
      .next { s with busy := false, done := true, err := true, ecode := 2 })

/-- R133, R134: PERM moves the first n bits by PTAB, zero-fills the last output byte and keeps the bytes after it; the
entries after the n-th are free. A count past 64, or a used entry that is 0 or above 64, reports PERM_RANGE. Bit `j`
counts from 0 at the most significant end. -/
def Obligations.PermFollowsTheUserTable : Prop :=
  (∀ n, n < 128 → decode (BitVec.ofNat 32 (0x08 + n * 2 ^ 8)) = some (.perm n)) ∧
  ∀ (s : State) (n : Nat),
    (n ≤ 64 → (∀ k : Fin 64, k.val < n → 1 ≤ s.ptab[k].toNat ∧ s.ptab[k].toNat ≤ 64) →
      ∃ x : Block,
        (∀ j : Fin 64, x.getMsbD j.val =
          if j.val < n then s.pin.getMsbD (s.ptab[j].toNat - 1)
          else if j.val < 8 * ((n + 7) / 8) then false else s.pout.getMsbD j.val) ∧
        exec (.perm n) s =
          .next { s with pout := x, busy := false, done := true, err := false, ecode := 0 }) ∧
    ((65 ≤ n ∨ ∃ k : Fin 64, k.val < n ∧ (s.ptab[k].toNat = 0 ∨ 65 ≤ s.ptab[k].toNat)) →
      exec (.perm n) s = .next { s with busy := false, done := true, err := true, ecode := 3 })

/-- R135 to R140, R134: each ROM permutation moves bits by its own table, of its own length, and keeps the bytes of
POUT past it. -/
def Obligations.RomPermutationsFollowTheirTables : Prop :=
  ∀ row ∈ [(Instr.permIp, 0x00100008#32, tableIP, 64), (Instr.permFp, 0x00200008#32, tableFP, 64),
      (Instr.permE, 0x00300008#32, tableE, 48), (Instr.permP, 0x00400008#32, tableP, 32),
      (Instr.permPc1, 0x00500008#32, tablePC1, 56), (Instr.permPc2, 0x00600008#32, tablePC2, 48)],
    decode row.2.1 = some row.1 ∧ row.2.2.1.length = row.2.2.2 ∧
    ∀ s : State, ∃ x : Block,
      (∀ j : Fin 64, x.getMsbD j.val =
        if j.val < row.2.2.2 then s.pin.getMsbD (row.2.2.1.getD j.val 0 - 1) else s.pout.getMsbD j.val) ∧
      exec row.1 s = .next { s with pout := x, busy := false, done := true, err := false, ecode := 0 }

/-- R142: each PERM command with a ROM table computes the same bits as the step inside KEYSCHED, FFUNC, ENC and DEC,
on the same input left-justified in PIN. -/
def Obligations.PermCommandsComputeTheInternalSteps : Prop :=
  ∀ s : State, ∃ a b c d e f,
    exec .permIp s = .next a ∧ a.pout = perm 64 tableIP s.pin ∧
    exec .permFp s = .next b ∧ b.pout = perm 64 tableFP s.pin ∧
    exec .permE s = .next c ∧ c.pout.extractLsb' 16 48 = perm 48 tableE (s.pin.extractLsb' 32 32) ∧
    exec .permP s = .next d ∧ d.pout.extractLsb' 32 32 = perm 32 tableP (s.pin.extractLsb' 32 32) ∧
    exec .permPc1 s = .next e ∧ e.pout.extractLsb' 8 56 = perm 56 tablePC1 s.pin ∧
    exec .permPc2 s = .next f ∧ f.pout.extractLsb' 16 48 = perm 48 tablePC2 (s.pin.extractLsb' 8 56)

/-! ### Laws of the cipher -/

/-- R210: DEC undoes ENC and ENC undoes DEC under one schedule, whatever the schedule; with equal subkeys the two are
one function and ENC twice is the identity. -/
def Obligations.DecUndoesEnc : Prop :=
  ∀ s : State, s.ksv = true →
    (∃ t u, exec .enc s = .next t ∧ exec .dec t = .next u ∧ u.blk = s.blk) ∧
    (∃ t u, exec .dec s = .next t ∧ exec .enc t = .next u ∧ u.blk = s.blk) ∧
    ((∀ i : Fin 16, s.sk[i] = s.sk[0]) →
      exec .enc s = exec .dec s ∧ ∃ t u, exec .enc s = .next t ∧ exec .enc t = .next u ∧ u.blk = s.blk)

/-- R211: ENC under the schedule of the complemented key of the complemented block is the complement. -/
def Obligations.ComplementedKeyAndBlock : Prop :=
  ∀ s : State, ∃ a b t u,
    exec .keysched s = .next a ∧ exec .enc a = .next t ∧
    exec .keysched { s with key := ~~~s.key, blk := ~~~s.blk } = .next b ∧ exec .enc b = .next u ∧
    u.blk = ~~~t.blk

/-- R184: keys that differ only in the bits 8, 16, …, 64 give the same schedule, and every key is accepted. -/
def Obligations.ParityBitsAreNeverRead : Prop :=
  ∀ (s : State) (K : Block), (∀ j, 1 ≤ j → j ≤ 64 → j % 8 ≠ 0 → desBit s.key j = desBit K j) →
    ∃ a b, exec .keysched s = .next a ∧ exec .keysched { s with key := K } = .next b ∧
      a.sk = b.sk ∧ a.err = false ∧ b.err = false

/-- R186: equal bits in C₀ and in D₀ give sixteen equal subkeys, ENC and DEC are then one function and ENC twice the
identity; and the three keys R186 names. -/
def Obligations.ConstantHalvesGiveConstantSchedules : Prop :=
  (∀ (s : State) (c d : Bool),
    (∀ j, 1 ≤ j → j ≤ 28 → desBit (perm 56 tablePC1 s.key) j = c) →
    (∀ j, 29 ≤ j → j ≤ 56 → desBit (perm 56 tablePC1 s.key) j = d) →
    ∃ a t u, exec .keysched s = .next a ∧ (∀ i : Fin 16, a.sk[i] = a.sk[0]) ∧
      exec .enc a = .next t ∧ exec .dec a = .next t ∧ exec .enc t = .next u ∧ u.blk = s.blk) ∧
  (∀ (s : State) (i : Fin 16), ∃ a b c,
    exec .keysched { s with key := 0x0101010101010101 } = .next a ∧ a.sk[i] = 0 ∧
    exec .keysched { s with key := 0 } = .next b ∧ b.sk[i] = 0 ∧
    exec .keysched { s with key := 0xFEFEFEFEFEFEFEFE } = .next c ∧ c.sk[i] = 0xFFFFFFFFFFFF)

/-- R204: f depends only on E(R) ⊕ K, and the four values R204 lists. -/
def Obligations.RoundFunctionDependsOnTheXor : Prop :=
  (∀ (R r : Half) (K : Subkey), feistel R K = feistel (R ^^^ r) (K ^^^ perm 48 tableE r)) ∧
  feistel 0 0 = 0xD8D8DBBC ∧ feistel 0xFFFFFFFF 0xFFFFFFFFFFFF = 0xD8D8DBBC ∧
  feistel 0xFFFFFFFF 0 = 0x38DBF9CB ∧ feistel 0 0xFFFFFFFFFFFF = 0x38DBF9CB

/-- R141: the identity table copies the first n bits and zero-fills the last output byte. -/
def Obligations.IdentityTableCopiesThePrefix : Prop :=
  ∀ (s : State) (n : Nat), n ≤ 64 → (∀ k : Fin 64, k.val < n → s.ptab[k].toNat = k.val + 1) →
    ∃ x : Block,
      (∀ j : Fin 64, x.getMsbD j.val =
        if j.val < n then s.pin.getMsbD j.val
        else if j.val < 8 * ((n + 7) / 8) then false else s.pout.getMsbD j.val) ∧
      exec (.perm n) s = .next { s with pout := x, busy := false, done := true, err := false, ecode := 0 }

/-- R166: the rotation amounts, their sum, and that after round 16 each half is back at its round-0 value. -/
def Obligations.HalvesReturnAfterRound16 : Prop :=
  shiftTable.length = 16 ∧ shiftTable.sum = 28 ∧
  (∀ i, 1 ≤ i → i ≤ 16 → entry shiftTable i = if i = 1 ∨ i = 2 ∨ i = 9 ∨ i = 16 then 1 else 2) ∧
  ∀ K : Block, halves K 16 = halves K 0

/-- R10: rotation is circular, "the bit that falls off the high end re-enters at the low end of the same 28-bit
half". -/
def Obligations.RotationIsCircular : Prop :=
  ∀ (x : KeyHalf) (s : Nat), s = 1 ∨ s = 2 →
    (∀ j, 1 ≤ j → j ≤ 28 → desBit (rotl28 x s) j = desBit x (if j ≤ 28 - s then j + s else j + s - 28)) ∧
    (rotl28 x s).toNat = x.toNat * 2 ^ s % 2 ^ 28 + x.toNat / 2 ^ (28 - s)

/-- R177, with the repetitions and omissions of R162, R164, R165: IP and FP are mutually inverse permutations of
1..64, P one of 1..32, each S-box row one of 0..15. -/
def Obligations.TablesMeetTheirLaws : Prop :=
  (∀ k : Fin 64, entry tableFP (entry tableIP (k.val + 1)) = k.val + 1 ∧
    entry tableIP (entry tableFP (k.val + 1)) = k.val + 1 ∧ k.val + 1 ∈ tableIP ∧ k.val + 1 ∈ tableFP) ∧
  tableIP.length = 64 ∧ tableFP.length = 64 ∧ tableE.length = 48 ∧ tableP.length = 32 ∧
  tablePC1.length = 56 ∧ tablePC2.length = 48 ∧
  (∀ k : Fin 32, k.val + 1 ∈ tableP) ∧
  (∀ k : Fin 32, tableE.count (k.val + 1) =
    if k.val + 1 ∈ [1, 4, 5, 8, 9, 12, 13, 16, 17, 20, 21, 24, 25, 28, 29, 32] then 2 else 1) ∧
  (∀ j : Fin 64, tablePC1.count (j.val + 1) = if (j.val + 1) % 8 = 0 then 0 else 1) ∧
  (∀ j : Fin 56, tablePC2.count (j.val + 1) =
    if j.val + 1 ∈ [9, 18, 22, 25, 35, 38, 43, 54] then 0 else 1) ∧
  sboxes.length = 8 ∧
  (∀ box ∈ sboxes, box.length = 4 ∧ ∀ row ∈ box, row.length = 16 ∧ ∀ v : Fin 16, v.val ∈ row)

/-- R167: the row and the column of an S-box's input, as register values: `row = 2·B[5] + B[0]`, `col = B[4:1]`. -/
def Obligations.SboxesAreIndexedByTheirBits : Prop :=
  ∀ (j : Fin 8) (B : BitVec 6),
    ((sboxes.getD j.val []).getD (2 * (B.extractLsb' 5 1).toNat + (B.extractLsb' 0 1).toNat) [])[
      (B.extractLsb' 1 4).toNat]? = some (sboxAt (j.val + 1) B).toNat

/-! ### The host's bus -/

/-- R77: a host read returns a value and changes nothing of the engine. The host's position and the response are the
model's own (log entries 2, 6). -/
def Obligations.ReadsChangeNoRegister : Prop :=
  ∀ (s : State) (ts : List Turn) (off : Nat) (w : Width), s.turns = .host :: ts →
    s.program[s.hostPc]? = some (.read off w) →
    step s = .next { s with turns := ts, hostPc := s.hostPc + 1, response := s.busRead off w }

/-- R110: `BNZ` reads its register and goes to its target if the value AND the mask is not 0, else to the next
statement; the read changes nothing of the engine (R77). The host's position, the response and `turns` are the model's
own (log entries 1, 2, 6). -/
def Obligations.BnzBranchesOnItsMask : Prop :=
  ∀ (s : State) (ts : List Turn) (r : Reg) (mask : Word) (target : Nat), s.turns = .host :: ts →
    s.program[s.hostPc]? = some (.bnz r mask target) →
    ∃ value, s.hostRead r.off .w32 = (.okay, value) ∧
      (value &&& mask ≠ 0 → step s =
        .next { s with turns := ts, hostPc := target, response := some ⟨.okay, some value⟩ }) ∧
      (value &&& mask = 0 → step s =
        .next { s with turns := ts, hostPc := s.hostPc + 1, response := some ⟨.okay, some value⟩ })

/-- R71, R72, R73: an access of another width, at a misaligned or at a reserved offset gets SLVERR, writes nothing and
reads 0; every other access in the window gets OKAY. -/
def Obligations.BadAccessesGetSlverr : Prop :=
  ∀ (s : State) (off : Nat) (w : Width) (v : Word), off < 0x200 →
    ((w ≠ .w32 ∨ off % 4 ≠ 0 ∨ (0x048 ≤ off ∧ off < 0x080) ∨ (0x0C0 ≤ off ∧ off < 0x100) ∨ 0x180 ≤ off) →
      s.hostWrite off w v = (s, .slverr) ∧ s.hostRead off w = (.slverr, 0)) ∧
    (w = .w32 → off % 4 = 0 → ¬(0x048 ≤ off ∧ off < 0x080) → ¬(0x0C0 ≤ off ∧ off < 0x100) → off < 0x180 →
      (s.hostWrite off w v).2 = .okay ∧ (s.hostRead off w).1 = .okay)

/-- R82: while BUSY = 1 a host write to a mapped offset other than STATUS is dropped and sets OVR. -/
def Obligations.BusyWritesAreDropped : Prop :=
  ∀ (s : State) (r : Reg) (v : Word), s.busy = true → r ≠ .status →
    s.hostWrite r.off .w32 v = ({ s with ovr := true }, .okay)

/-- R81: a write of STATUS clears OVR if bit 4 is 1 and does nothing else, busy or not. -/
def Obligations.StatusWriteOnlyClearsOverrun : Prop :=
  ∀ (s : State) (v : Word),
    s.hostWrite 0x004 .w32 v = ({ s with ovr := if v.getLsbD 4 = true then false else s.ovr }, .okay)

/-- R240, R80: a write of CMD while BUSY = 0 accepts every word, the illegal ones included; a read of CMD gives 0. -/
def Obligations.CmdWriteAcceptsEveryWord : Prop :=
  ∀ (s : State) (c : Word),
    (s.busy = false → s.hostWrite 0x000 .w32 c =
      ({ s with pending := some c, busy := true, done := false, err := false, ecode := 0 }, .okay)) ∧
    s.hostRead 0x000 .w32 = (.okay, 0)

/-- R74, R75, R76, R78, R35: a register written while BUSY = 0 reads back the value, with its reserved bits 0 and
BLK_LEN's 9..15 ignored. -/
def Obligations.WrittenRegisterReadsBack : Prop :=
  ∀ (s : State) (r : Reg) (v : Word), s.busy = false → r.access = .rw →
    ((s.hostWrite r.off .w32 v).1.hostRead r.off .w32) =
      (.okay,
        if r = .fKHi then v &&& 0x0000FFFF
        else if r = .blkLen then (if v.toNat % 16 ≤ 8 then v &&& 0x0000000F else s.readReg .blkLen)
        else v)

/-- R74, R75: a write of one read/write register leaves every other register reading as before. -/
def Obligations.WriteLeavesOtherRegistersAlone : Prop :=
  ∀ (s : State) (r q : Reg) (v : Word), s.busy = false → r.access = .rw → q ≠ r →
    (s.hostWrite r.off .w32 v).1.hostRead q.off .w32 = s.hostRead q.off .w32

/-- R79: a write of BITRES, F_OUT, SKi_HI or SKi_LO while BUSY = 0 changes nothing and gets OKAY. -/
def Obligations.ReadOnlyWritesAreIgnored : Prop :=
  ∀ (s : State) (r : Reg) (v : Word), s.busy = false →
    (r = .bitres ∨ r = .fOut ∨ ∃ i, r = .skHi i ∨ r = .skLo i) →
    s.hostWrite r.off .w32 v = (s, .okay)

/-- R74: the offset and the access of every register, all inside the window; an offset reaches a register exactly when
it is that register's. -/
def Obligations.RegisterMapIsOneToOne : Prop :=
  (∀ (off : Nat) (r : Reg), regAt off = some r ↔ r.off = off) ∧
  (∀ r : Reg, r.off < 0x200) ∧
  (∀ row ∈ [(Reg.cmd, 0x000, Access.wo), (.status, 0x004, .w1c), (.keyHi, 0x008, .rw), (.keyLo, 0x00C, .rw),
    (.ktextHi, 0x010, .rw), (.ktextLo, 0x014, .rw), (.blkHi, 0x018, .rw), (.blkLo, 0x01C, .rw),
    (.blkLen, 0x020, .rw), (.bitres, 0x024, .ro), (.fR, 0x028, .rw), (.fKHi, 0x02C, .rw), (.fKLo, 0x030, .rw),
    (.fOut, 0x034, .ro), (.pinHi, 0x038, .rw), (.pinLo, 0x03C, .rw), (.poutHi, 0x040, .rw),
    (.poutLo, 0x044, .rw)], regAt row.2.1 = some row.1 ∧ row.1.access = row.2.2) ∧
  (∀ w : Fin 16, regAt (0x080 + 4 * w.val) = some (.ptab w) ∧ Reg.access (.ptab w) = .rw) ∧
  (∀ i : Fin 16, regAt (0x100 + 8 * i.val) = some (.skHi i) ∧ Reg.access (.skHi i) = .ro ∧
    regAt (0x104 + 8 * i.val) = some (.skLo i) ∧ Reg.access (.skLo i) = .ro)

/-- R44, R78: the STATUS word, bit by bit. -/
def Obligations.StatusWordLayout : Prop :=
  ∀ (s : State) (k : Nat), k < 32 →
    (s.readReg .status).getLsbD k =
      if k = 0 then s.busy else if k = 1 then s.done else if k = 2 then s.err else if k = 3 then s.ksv
      else if k = 4 then s.ovr else if 8 ≤ k ∧ k < 12 then s.ecode.getLsbD (k - 8) else false

/-- R76: word PTABw holds PTAB[4w+1] … PTAB[4w+4], the first in the most significant byte; a write sets all four
entries and no other, and a read returns all four. -/
def Obligations.PtabWordLayout : Prop :=
  ∀ (s : State) (w : Fin 16) (v : Word), s.busy = false →
    (∀ k : Fin 64, (s.hostWrite (0x080 + 4 * w.val) .w32 v).1.ptab[k] =
      if k.val / 4 = w.val then v.extractLsb' (24 - 8 * (k.val % 4)) 8 else s.ptab[k]) ∧
    (∀ j : Fin 4, (s.hostRead (0x080 + 4 * w.val) .w32).2.extractLsb' (24 - 8 * j.val) 8 =
      s.ptab[4 * w.val + j.val]'(by omega))

/-- R75: which half of a split register each word is. A read of `X_HI` is `X[63:32]` and of `X_LO` is `X[31:0]`, a
write sets its half and keeps the other; of a 48-bit register `Y`, `Y_HI[15:0]` is `Y[47:32]`, its other bits read 0
and a write's are ignored. The subkeys are not written (R36). Nothing but the register changes. -/
def Obligations.SplitRegisterLayout : Prop :=
  ∀ (s : State) (v : Word),
    (∀ row ∈ [(0x008, s.key), (0x010, s.ktext), (0x018, s.blk), (0x038, s.pin), (0x040, s.pout)],
      s.hostRead row.1 .w32 = (.okay, row.2.extractLsb' 32 32) ∧
      s.hostRead (row.1 + 4) .w32 = (.okay, row.2.extractLsb' 0 32)) ∧
    s.hostRead 0x02C .w32 = (.okay, 0#16 ++ s.fK.extractLsb' 32 16) ∧
    s.hostRead 0x030 .w32 = (.okay, s.fK.extractLsb' 0 32) ∧
    (∀ i : Fin 16,
      s.hostRead (0x100 + 8 * i.val) .w32 = (.okay, 0#16 ++ s.sk[i].extractLsb' 32 16) ∧
      s.hostRead (0x104 + 8 * i.val) .w32 = (.okay, s.sk[i].extractLsb' 0 32) ∧
      (s.busy = false → s.hostWrite (0x100 + 8 * i.val) .w32 v = (s, .okay) ∧
        s.hostWrite (0x104 + 8 * i.val) .w32 v = (s, .okay))) ∧
    (s.busy = false →
      s.hostWrite 0x008 .w32 v = ({ s with key := v ++ s.key.extractLsb' 0 32 }, .okay) ∧
      s.hostWrite 0x00C .w32 v = ({ s with key := s.key.extractLsb' 32 32 ++ v }, .okay) ∧
      s.hostWrite 0x010 .w32 v = ({ s with ktext := v ++ s.ktext.extractLsb' 0 32 }, .okay) ∧
      s.hostWrite 0x014 .w32 v = ({ s with ktext := s.ktext.extractLsb' 32 32 ++ v }, .okay) ∧
      s.hostWrite 0x018 .w32 v = ({ s with blk := v ++ s.blk.extractLsb' 0 32 }, .okay) ∧
      s.hostWrite 0x01C .w32 v = ({ s with blk := s.blk.extractLsb' 32 32 ++ v }, .okay) ∧
      s.hostWrite 0x02C .w32 v = ({ s with fK := v.extractLsb' 0 16 ++ s.fK.extractLsb' 0 32 }, .okay) ∧
      s.hostWrite 0x030 .w32 v = ({ s with fK := s.fK.extractLsb' 32 16 ++ v }, .okay) ∧
      s.hostWrite 0x038 .w32 v = ({ s with pin := v ++ s.pin.extractLsb' 0 32 }, .okay) ∧
      s.hostWrite 0x03C .w32 v = ({ s with pin := s.pin.extractLsb' 32 32 ++ v }, .okay) ∧
      s.hostWrite 0x040 .w32 v = ({ s with pout := v ++ s.pout.extractLsb' 0 32 }, .okay) ∧
      s.hostWrite 0x044 .w32 v = ({ s with pout := s.pout.extractLsb' 32 32 ++ v }, .okay))

/-- R35, R38, R39, R78: the words of the registers that one word holds: BLK_LEN, BITRES, F_R and F_OUT, with their
reserved bits 0, and what a write of each does while BUSY = 0. -/
def Obligations.SingleWordLayout : Prop :=
  ∀ (s : State) (v : Word),
    s.hostRead 0x020 .w32 = (.okay, BitVec.ofNat 32 s.blkLen.toNat) ∧
    s.hostRead 0x024 .w32 = (.okay, if s.bitres then 1 else 0) ∧
    s.hostRead 0x028 .w32 = (.okay, s.fR) ∧
    s.hostRead 0x034 .w32 = (.okay, s.fOut) ∧
    (s.busy = false →
      s.hostWrite 0x020 .w32 v =
        ({ s with blkLen := if v.toNat % 16 ≤ 8 then BitVec.ofNat 4 v.toNat else s.blkLen }, .okay) ∧
      s.hostWrite 0x024 .w32 v = (s, .okay) ∧
      s.hostWrite 0x028 .w32 v = ({ s with fR := v }, .okay) ∧
      s.hostWrite 0x034 .w32 v = (s, .okay))

/-- R70: an access at DES_BASE + off, off below 0x200, is the engine's; one outside the window is not, wherever the
platform puts the window. -/
def Obligations.PlatformRoutesTheWindow : Prop :=
  ∀ (s : State) (addr : Nat) (w : Width) (v : Word),
    (∀ off, off < 0x200 → addr = Config.desBase + off →
      s.memWrite addr w v = ((s.hostWrite off w v).1, some ⟨(s.hostWrite off w v).2, none⟩) ∧
      s.memRead addr w = some ⟨(s.hostRead off w).1, some (s.hostRead off w).2⟩) ∧
    (addr < Config.desBase ∨ Config.desBase + 0x200 ≤ addr →
      s.memWrite addr w v = (s, none) ∧ s.memRead addr w = none)

/-- R245, R77, R82: while BUSY = 1 a host turn, whatever its statement, leaves every register but OVR alone. -/
def Obligations.BusyHostTurnsKeepEveryOperand : Prop :=
  ∀ s : State, s.busy = true →
    s.hostTurn = { s with ovr := s.hostTurn.ovr, hostPc := s.hostTurn.hostPc, response := s.hostTurn.response }

/-- R113, R248: a host that issues a command and waits (`EXEC`, R112) goes on when the command has completed, with no
write dropped, and finds the result of the command as executed at once, however many turns of its poll come before
the engine's. `program`, `hostPc` and `turns` are the model's own (log entries 1, 2). -/
def Obligations.ExecWaitsForItsCommand : Prop :=
  ∀ (s : State) (i : Instr) (n : Nat) (rest : List Turn), i.wf = true → s.busy = false →
    s.program[s.hostPc]? = some (wrStmt .cmd (encode i)) →
    s.program[s.hostPc + 1]? = some (waitStmt (s.hostPc + 1)) →
    ∃ t u,
      runSteps (n + 3)
        { s with turns := .host :: (List.replicate n .host ++ .engine :: .host :: rest) } = .next t ∧
      exec i { s with busy := true, done := false, err := false, ecode := 0, pending := none } = .next u ∧
      t = { u with turns := rest, hostPc := s.hostPc + 2, response := t.response } ∧ t.ovr = s.ovr
end

