-- ==== Sys2Proof/Laws/Asm.lean ====
section
/-! SUPPORT. What a written line reads as: numbers, parts, the first word (Machine/Asm.lean). -/

namespace Sys2Proof.Machine

/-- A digit character has its value (30_encoding.md R109). -/
theorem digitVal_digitChar (b d : Nat) (hb : b = 10 ∨ b = 16) (hd : d < b) :
    digitVal b (Nat.digitChar d) = some d := by
  rcases hb with rfl | rfl <;> interval_cases d <;> decide

/-- Digits read from left to right. -/
theorem digitsVal_append (b acc : Nat) (xs ys : List Char) :
    digitsVal b acc (xs ++ ys) = (digitsVal b acc xs).bind fun a => digitsVal b a ys := by
  induction xs generalizing acc with
  | nil => rfl
  | cons x xs ih =>
    simp only [List.cons_append, digitsVal]
    cases digitVal b x with
    | none => rfl
    | some v => simp [ih]

/-- The last digit of a number, and the digits before it. -/
theorem toDigits_step (b n : Nat) (hb : 1 < b) (h : b ≤ n) :
    Nat.toDigits b n = Nat.toDigits b (n / b) ++ Nat.toDigits b (n % b) := by
  rw [Nat.toDigits_append_toDigits hb (Nat.div_pos h (by omega)) (Nat.mod_lt _ (by omega)), Nat.div_add_mod]

/-- The digits of a number, decimal or hexadecimal, read back as the number. -/
theorem digitsVal_toDigits (b : Nat) (hb : b = 10 ∨ b = 16) (n : Nat) :
    digitsVal b 0 (Nat.toDigits b n) = some n := by
  induction n using Nat.strongRecOn with
  | _ n ih =>
    by_cases h : n < b
    · rw [Nat.toDigits_of_lt_base h]; simp [digitsVal, digitVal_digitChar b n hb h]
    · have h1 : 1 < b := by omega
      rw [toDigits_step b n h1 (by omega), digitsVal_append, ih (n / b) (Nat.div_lt_self (by omega) h1),
        Nat.toDigits_of_lt_base (Nat.mod_lt _ (by omega))]
      simp [digitsVal, digitVal_digitChar b _ hb (Nat.mod_lt n (by omega : 0 < b)), Nat.div_add_mod']

/-- A number is written without a blank, a comma or an `x`. -/
theorem toDigits_char (b : Nat) (hb : b = 10 ∨ b = 16) (n : Nat) :
    ∀ c ∈ Nat.toDigits b n, (c ≠ ' ' ∧ c ≠ ',') ∧ c ≠ 'x' := by
  induction n using Nat.strongRecOn with
  | _ n ih =>
    by_cases h : n < b
    · rw [Nat.toDigits_of_lt_base h]
      intro c hc; simp at hc; subst hc
      rcases hb with rfl | rfl <;> interval_cases n <;> decide
    · have h1 : 1 < b := by omega
      rw [toDigits_step b n h1 (by omega)]
      intro c hc
      rcases List.mem_append.mp hc with hc | hc
      · exact ih _ (Nat.div_lt_self (by omega) h1) c hc
      · exact ih _ (lt_of_lt_of_le (Nat.mod_lt _ (by omega)) (by omega)) c hc

/-- A text that neither begins nor ends with a blank is its own trim. -/
theorem trim_eq_self (cs : List Char) (h1 : ∀ c, cs.head? = some c → c ≠ ' ')
    (h2 : ∀ c, cs.getLast? = some c → c ≠ ' ') : trim cs = cs := by
  have key : ∀ xs : List Char, (∀ c, xs.head? = some c → c ≠ ' ') → xs.dropWhile (· == ' ') = xs := by
    intro xs h
    cases xs with
    | nil => rfl
    | cons x xs => rw [List.dropWhile_cons_of_neg]; simpa using h x rfl
  unfold trim
  rw [key cs h1, key cs.reverse (by simpa using h2), List.reverse_reverse]

/-- A blank before such a text is taken off. -/
theorem trim_blank (cs : List Char) (h : trim cs = cs) : trim (' ' :: cs) = cs := by
  unfold trim at *; rw [List.dropWhile_cons_of_pos (by decide)]; exact h

/-- The first word of a line. -/
theorem takeWhile_word (w cs : List Char) (hw : ∀ c ∈ w, c ≠ ' ') :
    (w ++ ' ' :: cs).takeWhile (· != ' ') = w := by
  induction w with
  | nil => simp
  | cons c w ih => simp [hw c (by simp)]; exact ih (fun c hc => hw c (by simp [hc]))

/-- The line after its first word. -/
theorem dropWhile_word (w cs : List Char) (hw : ∀ c ∈ w, c ≠ ' ') :
    (w ++ ' ' :: cs).dropWhile (· != ' ') = ' ' :: cs := by
  induction w with
  | nil => simp
  | cons c w ih => simp [hw c (by simp)]; exact ih (fun c hc => hw c (by simp [hc]))

/-- The last character of a text is that of its last part. -/
theorem getLast?_append_right (xs ys : List Char) (hne : ys ≠ []) (c : Char)
    (h : (xs ++ ys).getLast? = some c) : ys.getLast? = some c := by
  rw [List.getLast?_append] at h
  cases hy : ys.getLast? with
  | none => simp at hy; contradiction
  | some d => rw [hy] at h; simpa using h

/-- A text has at least one part. -/
theorem splitAtChar_ne_nil (c : Char) (xs : List Char) : splitAtChar c xs ≠ [] := by
  cases xs with
  | nil => simp [splitAtChar]
  | cons x xs => unfold splitAtChar; split <;> simp; split <;> simp

/-- A text without the separator is one part. -/
theorem splitAtChar_last (c : Char) (xs : List Char) (h : ∀ x ∈ xs, x ≠ c) : splitAtChar c xs = [xs] := by
  induction xs with
  | nil => rfl
  | cons x xs ih => simp [splitAtChar, ih (fun x hx => h x (by simp [hx])), h x (by simp)]

/-- The part before a separator, and the rest. -/
theorem splitAtChar_append (c : Char) (xs ys : List Char) (h : ∀ x ∈ xs, x ≠ c) :
    splitAtChar c (xs ++ c :: ys) = xs :: splitAtChar c ys := by
  induction xs with
  | nil =>
    simp only [List.nil_append, splitAtChar]
    split
    · exact absurd ‹_› (splitAtChar_ne_nil c ys)
    · simp [*]
  | cons x xs ih => simp [splitAtChar, ih (fun x hx => h x (by simp [hx])), h x (by simp)]

/-- A line of a word, a blank and a text is that word and that text. -/
theorem headWord_tailText (w rest : List Char) (hw : w.all (· != ' ') = true) (hne : w ≠ [])
    (hr : trim rest = rest) (hrl : rest ≠ []) (hl : ∀ c, rest.getLast? = some c → c ≠ ' ') :
    headWord (w ++ ' ' :: rest) = w ∧ tailText (w ++ ' ' :: rest) = rest := by
  have hw : ∀ c ∈ w, c ≠ ' ' := by simpa using hw
  have ht : trim (w ++ ' ' :: rest) = w ++ ' ' :: rest := by
    apply trim_eq_self
    · intro c hc; cases w with
      | nil => contradiction
      | cons a w => simp at hc; subst hc; exact hw _ (by simp)
    · intro c hc
      rw [show w ++ ' ' :: rest = (w ++ [' ']) ++ rest by simp] at hc
      exact hl c (getLast?_append_right _ _ hrl c hc)
  unfold headWord tailText
  rw [ht, takeWhile_word w rest hw, dropWhile_word w rest hw]
  exact ⟨rfl, trim_blank rest hr⟩

end Sys2Proof.Machine
end

