-- ==== Sys2Proof/Laws/Bits.lean ====
section
/-! SUPPORT. The bit-string operations: reading a bit of each, and the equality of bit strings from their bits. -/

namespace Sys2Proof.Machine

/-- Bit strings with the same DES bits are equal (00_scope.md R7). -/
theorem eq_of_desBit {w : Nat} {x y : BitVec w} (h : ∀ j, 1 ≤ j → j ≤ w → desBit x j = desBit y j) : x = y := by
  apply BitVec.eq_of_getLsbD_eq
  intro i hi
  have h' := h (w - i) (by omega) (by omega)
  simpa [desBit, show w - (w - i) = i by omega] using h'

/-- The bits of a bit string given bit by bit. -/
theorem desBit_ofDesBits {w : Nat} (f : Nat → Bool) {j : Nat} (h1 : 1 ≤ j) (hw : j ≤ w) :
    desBit (ofDesBits w f) j = f j := by
  induction w with
  | zero => omega
  | succ w ih =>
    rcases Nat.lt_or_ge w j with h | h
    · obtain rfl : j = w + 1 := by omega
      simp [desBit, ofDesBits]
    · have ih' := ih h
      unfold desBit at ih' ⊢
      rw [ofDesBits, BitVec.getLsbD_concat, if_neg (by omega), ← ih']
      congr 1
      omega

/-- `Perm(T, s)⟨k⟩ = s⟨T[k]⟩` (00_scope.md R9). -/
theorem desBit_perm {w n : Nat} (T : List Nat) (s : BitVec w) {k : Nat} (h1 : 1 ≤ k) (hn : k ≤ n) :
    desBit (perm n T s) k = desBit s (entry T k) := desBit_ofDesBits _ h1 hn

/-- DES bit `j` is the bit of index `w − j` from the least significant end (00_scope.md R7). -/
theorem desBit_eq_getMsbD {w : Nat} (s : BitVec w) {j : Nat} (h1 : 1 ≤ j) (hw : j ≤ w) :
    desBit s j = s.getMsbD (j - 1) := by
  rw [desBit, BitVec.getMsbD_eq_getLsbD, show w - 1 - (j - 1) = w - j by omega]
  simp [show j - 1 < w by omega]

theorem getMsbD_eq_desBit {w : Nat} (s : BitVec w) {j : Nat} (hw : j < w) :
    s.getMsbD j = desBit s (j + 1) := by
  rw [desBit_eq_getMsbD s (by omega) (by omega), Nat.add_sub_cancel]

@[simp] theorem desBit_xor {w : Nat} (x y : BitVec w) (j : Nat) :
    desBit (x ^^^ y) j = (desBit x j ^^ desBit y j) := by simp [desBit]

theorem desBit_not {w : Nat} (x : BitVec w) {j : Nat} (h1 : 1 ≤ j) (hw : j ≤ w) :
    desBit (~~~x) j = !desBit x j := by simp [desBit, show w - j < w by omega]

/-- A concatenation's leading bits are the first string's (00_scope.md R8). -/
theorem desBit_append {v w : Nat} (x : BitVec v) (y : BitVec w) {j : Nat} (hj : j ≤ v + w) :
    desBit (x ++ y) j = if j ≤ v then desBit x j else desBit y (j - v) := by
  unfold desBit
  rw [BitVec.getLsbD_append]
  split <;> split
  · omega
  · congr 1; omega
  · congr 1; omega
  · omega

/-- A permutation distributes over exclusive or: every table only moves bits. -/
theorem perm_xor {w n : Nat} (T : List Nat) (x y : BitVec w) :
    perm n T (x ^^^ y) = perm n T x ^^^ perm n T y := by
  apply eq_of_desBit
  intro j h1 hn
  simp [desBit_perm, h1, hn]

/-- A permutation by legal entries commutes with the complement. -/
theorem perm_not {w n : Nat} (T : List Nat) (x : BitVec w)
    (hT : ∀ k, 1 ≤ k → k ≤ n → 1 ≤ entry T k ∧ entry T k ≤ w) : perm n T (~~~x) = ~~~perm n T x := by
  apply eq_of_desBit
  intro j h1 hn
  rw [desBit_perm _ _ h1 hn, desBit_not _ (hT j h1 hn).1 (hT j h1 hn).2, desBit_not _ h1 hn,
    desBit_perm _ _ h1 hn]

/-- Two permutations, one after the other, are the permutation by the composed table. -/
theorem perm_perm {w m n : Nat} (T U : List Nat) (x : BitVec w) {k : Nat} (h1 : 1 ≤ k) (hn : k ≤ n)
    (hU : 1 ≤ entry U k ∧ entry U k ≤ m) :
    desBit (perm n U (perm m T x)) k = desBit x (entry T (entry U k)) := by
  rw [desBit_perm _ _ h1 hn, desBit_perm _ _ hU.1 hU.2]

/-- A table of `n` entries, each naming one of the bits 1..`w`. -/
def legalTable (n w : Nat) (T : List Nat) : Bool :=
  T.length == n && (List.range n).all fun k => 1 ≤ entry T (k + 1) && entry T (k + 1) ≤ w

theorem legalTable_bounds {n w : Nat} {T : List Nat} (h : legalTable n w T = true) {k : Nat} (h1 : 1 ≤ k)
    (hn : k ≤ n) : 1 ≤ entry T k ∧ entry T k ≤ w := by
  simp only [legalTable, Bool.and_eq_true, List.all_eq_true, List.mem_range, decide_eq_true_eq] at h
  have := h.2 (k - 1) (by omega)
  rwa [Nat.sub_add_cancel h1] at this

theorem legal_tableIP : legalTable 64 64 tableIP = true := by decide +kernel
theorem legal_tableFP : legalTable 64 64 tableFP = true := by decide +kernel
theorem legal_tableE : legalTable 48 32 tableE = true := by decide +kernel
theorem legal_tableP : legalTable 32 32 tableP = true := by decide +kernel
theorem legal_tablePC1 : legalTable 56 64 tablePC1 = true := by decide +kernel
theorem legal_tablePC2 : legalTable 48 56 tablePC2 = true := by decide +kernel

/-- The halves put together and cut apart again (43_feistel_cipher.md R206). -/
theorem extract_hi_append {v w : Nat} (x : BitVec v) (y : BitVec w) : (x ++ y).extractLsb' w v = x := by
  apply BitVec.eq_of_getLsbD_eq
  intro i hi
  simp [BitVec.getLsbD_append, hi]

theorem extract_lo_append {v w : Nat} (x : BitVec v) (y : BitVec w) : (x ++ y).extractLsb' 0 w = y := by
  apply BitVec.eq_of_getLsbD_eq
  intro i hi
  simp [BitVec.getLsbD_append, hi]

/-- The bytes of a buffer given byte by byte (00_scope.md R7). -/
theorem byteOf_ofBytes (f : Nat → Byte) {k : Nat} (hk : k < 8) : byteOf (ofBytes f) k = f k := by
  apply BitVec.eq_of_getLsbD_eq
  intro i hi
  rw [byteOf, BitVec.getLsbD_extractLsb', ofBytes]
  change (decide (i < 8) && BitVec.getLsbD (w := 8 + 8 + 8 + 8 + 8 + 8 + 8 + 8) _ _) = _
  simp only [BitVec.getLsbD_append, hi, decide_true, Bool.true_and]
  interval_cases k <;> (repeat' split) <;> first | omega | (congr 1; omega)

/-- Nibble `j` of the substitution is the output of S-box `j` on group `j` (43_feistel_cipher.md R201, R202). -/
theorem substitute_group (X : BitVec 48) {j : Nat} (h1 : 1 ≤ j) (h8 : j ≤ 8) :
    (substitute X).extractLsb' (32 - 4 * j) 4 = sboxAt j (group X j) := by
  apply BitVec.eq_of_getLsbD_eq
  intro i hi
  rw [BitVec.getLsbD_extractLsb', substitute]
  change (decide (i < 4) && BitVec.getLsbD (w := 4 + 4 + 4 + 4 + 4 + 4 + 4 + 4) _ _) = _
  simp only [BitVec.getLsbD_append, hi, decide_true, Bool.true_and]
  interval_cases j <;> (repeat' split) <;> first | omega | (congr 1; omega)

end Sys2Proof.Machine
end

