-- ==== Sys2Proof/Laws/State.lean ====
section
/-! SUPPORT. The fields of the state after each shared update: one lemma a field, by rfl. -/

namespace Sys2Proof.Machine

variable (s : State)

/-! ### Acceptance (45_control.md R240) -/

@[simp] theorem State.accept_key (c : Word) : (s.accept c).key = s.key := rfl
@[simp] theorem State.accept_ktext (c : Word) : (s.accept c).ktext = s.ktext := rfl
@[simp] theorem State.accept_blk (c : Word) : (s.accept c).blk = s.blk := rfl
@[simp] theorem State.accept_blkLen (c : Word) : (s.accept c).blkLen = s.blkLen := rfl
@[simp] theorem State.accept_sk (c : Word) : (s.accept c).sk = s.sk := rfl
@[simp] theorem State.accept_fR (c : Word) : (s.accept c).fR = s.fR := rfl
@[simp] theorem State.accept_fK (c : Word) : (s.accept c).fK = s.fK := rfl
@[simp] theorem State.accept_fOut (c : Word) : (s.accept c).fOut = s.fOut := rfl
@[simp] theorem State.accept_bitres (c : Word) : (s.accept c).bitres = s.bitres := rfl
@[simp] theorem State.accept_pin (c : Word) : (s.accept c).pin = s.pin := rfl
@[simp] theorem State.accept_pout (c : Word) : (s.accept c).pout = s.pout := rfl
@[simp] theorem State.accept_ptab (c : Word) : (s.accept c).ptab = s.ptab := rfl
@[simp] theorem State.accept_busy (c : Word) : (s.accept c).busy = true := rfl
@[simp] theorem State.accept_done (c : Word) : (s.accept c).done = false := rfl
@[simp] theorem State.accept_err (c : Word) : (s.accept c).err = false := rfl
@[simp] theorem State.accept_ksv (c : Word) : (s.accept c).ksv = s.ksv := rfl
@[simp] theorem State.accept_ovr (c : Word) : (s.accept c).ovr = s.ovr := rfl
@[simp] theorem State.accept_ecode (c : Word) : (s.accept c).ecode = 0 := rfl
@[simp] theorem State.accept_pending (c : Word) : (s.accept c).pending = some c := rfl
@[simp] theorem State.accept_program (c : Word) : (s.accept c).program = s.program := rfl
@[simp] theorem State.accept_hostPc (c : Word) : (s.accept c).hostPc = s.hostPc := rfl
@[simp] theorem State.accept_response (c : Word) : (s.accept c).response = s.response := rfl
@[simp] theorem State.accept_turns (c : Word) : (s.accept c).turns = s.turns := rfl

/-! ### Completion (45_control.md R242) -/

@[simp] theorem State.complete_key (e : Option ErrorCode) : (s.complete e).key = s.key := rfl
@[simp] theorem State.complete_ktext (e : Option ErrorCode) : (s.complete e).ktext = s.ktext := rfl
@[simp] theorem State.complete_blk (e : Option ErrorCode) : (s.complete e).blk = s.blk := rfl
@[simp] theorem State.complete_blkLen (e : Option ErrorCode) : (s.complete e).blkLen = s.blkLen := rfl
@[simp] theorem State.complete_sk (e : Option ErrorCode) : (s.complete e).sk = s.sk := rfl
@[simp] theorem State.complete_fR (e : Option ErrorCode) : (s.complete e).fR = s.fR := rfl
@[simp] theorem State.complete_fK (e : Option ErrorCode) : (s.complete e).fK = s.fK := rfl
@[simp] theorem State.complete_fOut (e : Option ErrorCode) : (s.complete e).fOut = s.fOut := rfl
@[simp] theorem State.complete_bitres (e : Option ErrorCode) : (s.complete e).bitres = s.bitres := rfl
@[simp] theorem State.complete_pin (e : Option ErrorCode) : (s.complete e).pin = s.pin := rfl
@[simp] theorem State.complete_pout (e : Option ErrorCode) : (s.complete e).pout = s.pout := rfl
@[simp] theorem State.complete_ptab (e : Option ErrorCode) : (s.complete e).ptab = s.ptab := rfl
@[simp] theorem State.complete_busy (e : Option ErrorCode) : (s.complete e).busy = false := rfl
@[simp] theorem State.complete_done (e : Option ErrorCode) : (s.complete e).done = true := rfl
@[simp] theorem State.complete_err (e : Option ErrorCode) : (s.complete e).err = e.isSome := rfl
@[simp] theorem State.complete_ksv (e : Option ErrorCode) : (s.complete e).ksv = s.ksv := rfl
@[simp] theorem State.complete_ovr (e : Option ErrorCode) : (s.complete e).ovr = s.ovr := rfl
@[simp] theorem State.complete_ecode (e : Option ErrorCode) : (s.complete e).ecode = ecodeOf e := rfl
@[simp] theorem State.complete_pending (e : Option ErrorCode) : (s.complete e).pending = s.pending := rfl
@[simp] theorem State.complete_program (e : Option ErrorCode) : (s.complete e).program = s.program := rfl
@[simp] theorem State.complete_hostPc (e : Option ErrorCode) : (s.complete e).hostPc = s.hostPc := rfl
@[simp] theorem State.complete_response (e : Option ErrorCode) : (s.complete e).response = s.response := rfl
@[simp] theorem State.complete_turns (e : Option ErrorCode) : (s.complete e).turns = s.turns := rfl

/-! ### PENDING taken (45_control.md R241) -/

@[simp] theorem State.takePending_key : (s.takePending).key = s.key := rfl
@[simp] theorem State.takePending_ktext : (s.takePending).ktext = s.ktext := rfl
@[simp] theorem State.takePending_blk : (s.takePending).blk = s.blk := rfl
@[simp] theorem State.takePending_blkLen : (s.takePending).blkLen = s.blkLen := rfl
@[simp] theorem State.takePending_sk : (s.takePending).sk = s.sk := rfl
@[simp] theorem State.takePending_fR : (s.takePending).fR = s.fR := rfl
@[simp] theorem State.takePending_fK : (s.takePending).fK = s.fK := rfl
@[simp] theorem State.takePending_fOut : (s.takePending).fOut = s.fOut := rfl
@[simp] theorem State.takePending_bitres : (s.takePending).bitres = s.bitres := rfl
@[simp] theorem State.takePending_pin : (s.takePending).pin = s.pin := rfl
@[simp] theorem State.takePending_pout : (s.takePending).pout = s.pout := rfl
@[simp] theorem State.takePending_ptab : (s.takePending).ptab = s.ptab := rfl
@[simp] theorem State.takePending_busy : (s.takePending).busy = s.busy := rfl
@[simp] theorem State.takePending_done : (s.takePending).done = s.done := rfl
@[simp] theorem State.takePending_err : (s.takePending).err = s.err := rfl
@[simp] theorem State.takePending_ksv : (s.takePending).ksv = s.ksv := rfl
@[simp] theorem State.takePending_ovr : (s.takePending).ovr = s.ovr := rfl
@[simp] theorem State.takePending_ecode : (s.takePending).ecode = s.ecode := rfl
@[simp] theorem State.takePending_pending : (s.takePending).pending = none := rfl
@[simp] theorem State.takePending_program : (s.takePending).program = s.program := rfl
@[simp] theorem State.takePending_hostPc : (s.takePending).hostPc = s.hostPc := rfl
@[simp] theorem State.takePending_response : (s.takePending).response = s.response := rfl
@[simp] theorem State.takePending_turns : (s.takePending).turns = s.turns := rfl

/-! ### The order of events -/

@[simp] theorem State.withTurns_key (ts : List Turn) : (s.withTurns ts).key = s.key := rfl
@[simp] theorem State.withTurns_ktext (ts : List Turn) : (s.withTurns ts).ktext = s.ktext := rfl
@[simp] theorem State.withTurns_blk (ts : List Turn) : (s.withTurns ts).blk = s.blk := rfl
@[simp] theorem State.withTurns_blkLen (ts : List Turn) : (s.withTurns ts).blkLen = s.blkLen := rfl
@[simp] theorem State.withTurns_sk (ts : List Turn) : (s.withTurns ts).sk = s.sk := rfl
@[simp] theorem State.withTurns_fR (ts : List Turn) : (s.withTurns ts).fR = s.fR := rfl
@[simp] theorem State.withTurns_fK (ts : List Turn) : (s.withTurns ts).fK = s.fK := rfl
@[simp] theorem State.withTurns_fOut (ts : List Turn) : (s.withTurns ts).fOut = s.fOut := rfl
@[simp] theorem State.withTurns_bitres (ts : List Turn) : (s.withTurns ts).bitres = s.bitres := rfl
@[simp] theorem State.withTurns_pin (ts : List Turn) : (s.withTurns ts).pin = s.pin := rfl
@[simp] theorem State.withTurns_pout (ts : List Turn) : (s.withTurns ts).pout = s.pout := rfl
@[simp] theorem State.withTurns_ptab (ts : List Turn) : (s.withTurns ts).ptab = s.ptab := rfl
@[simp] theorem State.withTurns_busy (ts : List Turn) : (s.withTurns ts).busy = s.busy := rfl
@[simp] theorem State.withTurns_done (ts : List Turn) : (s.withTurns ts).done = s.done := rfl
@[simp] theorem State.withTurns_err (ts : List Turn) : (s.withTurns ts).err = s.err := rfl
@[simp] theorem State.withTurns_ksv (ts : List Turn) : (s.withTurns ts).ksv = s.ksv := rfl
@[simp] theorem State.withTurns_ovr (ts : List Turn) : (s.withTurns ts).ovr = s.ovr := rfl
@[simp] theorem State.withTurns_ecode (ts : List Turn) : (s.withTurns ts).ecode = s.ecode := rfl
@[simp] theorem State.withTurns_pending (ts : List Turn) : (s.withTurns ts).pending = s.pending := rfl
@[simp] theorem State.withTurns_program (ts : List Turn) : (s.withTurns ts).program = s.program := rfl
@[simp] theorem State.withTurns_hostPc (ts : List Turn) : (s.withTurns ts).hostPc = s.hostPc := rfl
@[simp] theorem State.withTurns_response (ts : List Turn) : (s.withTurns ts).response = s.response := rfl
@[simp] theorem State.withTurns_turns (ts : List Turn) : (s.withTurns ts).turns = ts := rfl

/-! ### A dropped write (20_memory.md R82) -/

@[simp] theorem State.overrun_key : (s.overrun).key = s.key := rfl
@[simp] theorem State.overrun_ktext : (s.overrun).ktext = s.ktext := rfl
@[simp] theorem State.overrun_blk : (s.overrun).blk = s.blk := rfl
@[simp] theorem State.overrun_blkLen : (s.overrun).blkLen = s.blkLen := rfl
@[simp] theorem State.overrun_sk : (s.overrun).sk = s.sk := rfl
@[simp] theorem State.overrun_fR : (s.overrun).fR = s.fR := rfl
@[simp] theorem State.overrun_fK : (s.overrun).fK = s.fK := rfl
@[simp] theorem State.overrun_fOut : (s.overrun).fOut = s.fOut := rfl
@[simp] theorem State.overrun_bitres : (s.overrun).bitres = s.bitres := rfl
@[simp] theorem State.overrun_pin : (s.overrun).pin = s.pin := rfl
@[simp] theorem State.overrun_pout : (s.overrun).pout = s.pout := rfl
@[simp] theorem State.overrun_ptab : (s.overrun).ptab = s.ptab := rfl
@[simp] theorem State.overrun_busy : (s.overrun).busy = s.busy := rfl
@[simp] theorem State.overrun_done : (s.overrun).done = s.done := rfl
@[simp] theorem State.overrun_err : (s.overrun).err = s.err := rfl
@[simp] theorem State.overrun_ksv : (s.overrun).ksv = s.ksv := rfl
@[simp] theorem State.overrun_ovr : (s.overrun).ovr = true := rfl
@[simp] theorem State.overrun_ecode : (s.overrun).ecode = s.ecode := rfl
@[simp] theorem State.overrun_pending : (s.overrun).pending = s.pending := rfl
@[simp] theorem State.overrun_program : (s.overrun).program = s.program := rfl
@[simp] theorem State.overrun_hostPc : (s.overrun).hostPc = s.hostPc := rfl
@[simp] theorem State.overrun_response : (s.overrun).response = s.response := rfl
@[simp] theorem State.overrun_turns : (s.overrun).turns = s.turns := rfl

/-! ### The host past a statement -/

@[simp] theorem State.advanceHost_key (pc : Nat) (r : Option Response) : (s.advanceHost pc r).key = s.key := rfl
@[simp] theorem State.advanceHost_ktext (pc : Nat) (r : Option Response) : (s.advanceHost pc r).ktext = s.ktext := rfl
@[simp] theorem State.advanceHost_blk (pc : Nat) (r : Option Response) : (s.advanceHost pc r).blk = s.blk := rfl
@[simp] theorem State.advanceHost_blkLen (pc : Nat) (r : Option Response) : (s.advanceHost pc r).blkLen = s.blkLen := rfl
@[simp] theorem State.advanceHost_sk (pc : Nat) (r : Option Response) : (s.advanceHost pc r).sk = s.sk := rfl
@[simp] theorem State.advanceHost_fR (pc : Nat) (r : Option Response) : (s.advanceHost pc r).fR = s.fR := rfl
@[simp] theorem State.advanceHost_fK (pc : Nat) (r : Option Response) : (s.advanceHost pc r).fK = s.fK := rfl
@[simp] theorem State.advanceHost_fOut (pc : Nat) (r : Option Response) : (s.advanceHost pc r).fOut = s.fOut := rfl
@[simp] theorem State.advanceHost_bitres (pc : Nat) (r : Option Response) : (s.advanceHost pc r).bitres = s.bitres := rfl
@[simp] theorem State.advanceHost_pin (pc : Nat) (r : Option Response) : (s.advanceHost pc r).pin = s.pin := rfl
@[simp] theorem State.advanceHost_pout (pc : Nat) (r : Option Response) : (s.advanceHost pc r).pout = s.pout := rfl
@[simp] theorem State.advanceHost_ptab (pc : Nat) (r : Option Response) : (s.advanceHost pc r).ptab = s.ptab := rfl
@[simp] theorem State.advanceHost_busy (pc : Nat) (r : Option Response) : (s.advanceHost pc r).busy = s.busy := rfl
@[simp] theorem State.advanceHost_done (pc : Nat) (r : Option Response) : (s.advanceHost pc r).done = s.done := rfl
@[simp] theorem State.advanceHost_err (pc : Nat) (r : Option Response) : (s.advanceHost pc r).err = s.err := rfl
@[simp] theorem State.advanceHost_ksv (pc : Nat) (r : Option Response) : (s.advanceHost pc r).ksv = s.ksv := rfl
@[simp] theorem State.advanceHost_ovr (pc : Nat) (r : Option Response) : (s.advanceHost pc r).ovr = s.ovr := rfl
@[simp] theorem State.advanceHost_ecode (pc : Nat) (r : Option Response) : (s.advanceHost pc r).ecode = s.ecode := rfl
@[simp] theorem State.advanceHost_pending (pc : Nat) (r : Option Response) : (s.advanceHost pc r).pending = s.pending := rfl
@[simp] theorem State.advanceHost_program (pc : Nat) (r : Option Response) : (s.advanceHost pc r).program = s.program := rfl
@[simp] theorem State.advanceHost_hostPc (pc : Nat) (r : Option Response) : (s.advanceHost pc r).hostPc = pc := rfl
@[simp] theorem State.advanceHost_response (pc : Nat) (r : Option Response) : (s.advanceHost pc r).response = r := rfl
@[simp] theorem State.advanceHost_turns (pc : Nat) (r : Option Response) : (s.advanceHost pc r).turns = s.turns := rfl

/-! ### The reset event (70_reset_and_hazards.md R291) -/

@[simp] theorem State.resetTurn_key : (s.resetTurn).key = State.reset.key := rfl
@[simp] theorem State.resetTurn_ktext : (s.resetTurn).ktext = State.reset.ktext := rfl
@[simp] theorem State.resetTurn_blk : (s.resetTurn).blk = State.reset.blk := rfl
@[simp] theorem State.resetTurn_blkLen : (s.resetTurn).blkLen = State.reset.blkLen := rfl
@[simp] theorem State.resetTurn_sk : (s.resetTurn).sk = State.reset.sk := rfl
@[simp] theorem State.resetTurn_fR : (s.resetTurn).fR = State.reset.fR := rfl
@[simp] theorem State.resetTurn_fK : (s.resetTurn).fK = State.reset.fK := rfl
@[simp] theorem State.resetTurn_fOut : (s.resetTurn).fOut = State.reset.fOut := rfl
@[simp] theorem State.resetTurn_bitres : (s.resetTurn).bitres = State.reset.bitres := rfl
@[simp] theorem State.resetTurn_pin : (s.resetTurn).pin = State.reset.pin := rfl
@[simp] theorem State.resetTurn_pout : (s.resetTurn).pout = State.reset.pout := rfl
@[simp] theorem State.resetTurn_ptab : (s.resetTurn).ptab = State.reset.ptab := rfl
@[simp] theorem State.resetTurn_busy : (s.resetTurn).busy = State.reset.busy := rfl
@[simp] theorem State.resetTurn_done : (s.resetTurn).done = State.reset.done := rfl
@[simp] theorem State.resetTurn_err : (s.resetTurn).err = State.reset.err := rfl
@[simp] theorem State.resetTurn_ksv : (s.resetTurn).ksv = State.reset.ksv := rfl
@[simp] theorem State.resetTurn_ovr : (s.resetTurn).ovr = State.reset.ovr := rfl
@[simp] theorem State.resetTurn_ecode : (s.resetTurn).ecode = State.reset.ecode := rfl
@[simp] theorem State.resetTurn_pending : (s.resetTurn).pending = State.reset.pending := rfl
@[simp] theorem State.resetTurn_program : (s.resetTurn).program = s.program := rfl
@[simp] theorem State.resetTurn_hostPc : (s.resetTurn).hostPc = s.hostPc := rfl
@[simp] theorem State.resetTurn_response : (s.resetTurn).response = s.response := rfl
@[simp] theorem State.resetTurn_turns : (s.resetTurn).turns = s.turns := rfl

/-! ### A command word placed to run next -/

@[simp] theorem State.withFetchWord_key (n w : Nat) : (s.withFetchWord n w).key = s.key := rfl
@[simp] theorem State.withFetchWord_ktext (n w : Nat) : (s.withFetchWord n w).ktext = s.ktext := rfl
@[simp] theorem State.withFetchWord_blk (n w : Nat) : (s.withFetchWord n w).blk = s.blk := rfl
@[simp] theorem State.withFetchWord_blkLen (n w : Nat) : (s.withFetchWord n w).blkLen = s.blkLen := rfl
@[simp] theorem State.withFetchWord_sk (n w : Nat) : (s.withFetchWord n w).sk = s.sk := rfl
@[simp] theorem State.withFetchWord_fR (n w : Nat) : (s.withFetchWord n w).fR = s.fR := rfl
@[simp] theorem State.withFetchWord_fK (n w : Nat) : (s.withFetchWord n w).fK = s.fK := rfl
@[simp] theorem State.withFetchWord_fOut (n w : Nat) : (s.withFetchWord n w).fOut = s.fOut := rfl
@[simp] theorem State.withFetchWord_bitres (n w : Nat) : (s.withFetchWord n w).bitres = s.bitres := rfl
@[simp] theorem State.withFetchWord_pin (n w : Nat) : (s.withFetchWord n w).pin = s.pin := rfl
@[simp] theorem State.withFetchWord_pout (n w : Nat) : (s.withFetchWord n w).pout = s.pout := rfl
@[simp] theorem State.withFetchWord_ptab (n w : Nat) : (s.withFetchWord n w).ptab = s.ptab := rfl
@[simp] theorem State.withFetchWord_busy (n w : Nat) : (s.withFetchWord n w).busy = true := rfl
@[simp] theorem State.withFetchWord_done (n w : Nat) : (s.withFetchWord n w).done = false := rfl
@[simp] theorem State.withFetchWord_err (n w : Nat) : (s.withFetchWord n w).err = false := rfl
@[simp] theorem State.withFetchWord_ksv (n w : Nat) : (s.withFetchWord n w).ksv = s.ksv := rfl
@[simp] theorem State.withFetchWord_ovr (n w : Nat) : (s.withFetchWord n w).ovr = s.ovr := rfl
@[simp] theorem State.withFetchWord_ecode (n w : Nat) : (s.withFetchWord n w).ecode = 0 := rfl
@[simp] theorem State.withFetchWord_pending (n w : Nat) : (s.withFetchWord n w).pending = some (BitVec.ofNat 32 (w % 2 ^ n)) := rfl
@[simp] theorem State.withFetchWord_program (n w : Nat) : (s.withFetchWord n w).program = s.program := rfl
@[simp] theorem State.withFetchWord_hostPc (n w : Nat) : (s.withFetchWord n w).hostPc = s.hostPc := rfl
@[simp] theorem State.withFetchWord_response (n w : Nat) : (s.withFetchWord n w).response = s.response := rfl
@[simp] theorem State.withFetchWord_turns (n w : Nat) : (s.withFetchWord n w).turns = .engine :: s.turns := rfl

/-! ### A permutation (40_bitplane.md R134) -/

@[simp] theorem State.permute_key (T : List Nat) (n : Nat) : (s.permute T n).key = s.key := rfl
@[simp] theorem State.permute_ktext (T : List Nat) (n : Nat) : (s.permute T n).ktext = s.ktext := rfl
@[simp] theorem State.permute_blk (T : List Nat) (n : Nat) : (s.permute T n).blk = s.blk := rfl
@[simp] theorem State.permute_blkLen (T : List Nat) (n : Nat) : (s.permute T n).blkLen = s.blkLen := rfl
@[simp] theorem State.permute_sk (T : List Nat) (n : Nat) : (s.permute T n).sk = s.sk := rfl
@[simp] theorem State.permute_fR (T : List Nat) (n : Nat) : (s.permute T n).fR = s.fR := rfl
@[simp] theorem State.permute_fK (T : List Nat) (n : Nat) : (s.permute T n).fK = s.fK := rfl
@[simp] theorem State.permute_fOut (T : List Nat) (n : Nat) : (s.permute T n).fOut = s.fOut := rfl
@[simp] theorem State.permute_bitres (T : List Nat) (n : Nat) : (s.permute T n).bitres = s.bitres := rfl
@[simp] theorem State.permute_pin (T : List Nat) (n : Nat) : (s.permute T n).pin = s.pin := rfl
@[simp] theorem State.permute_pout (T : List Nat) (n : Nat) : (s.permute T n).pout = permPlane T n s.pin s.pout := rfl
@[simp] theorem State.permute_ptab (T : List Nat) (n : Nat) : (s.permute T n).ptab = s.ptab := rfl
@[simp] theorem State.permute_busy (T : List Nat) (n : Nat) : (s.permute T n).busy = false := rfl
@[simp] theorem State.permute_done (T : List Nat) (n : Nat) : (s.permute T n).done = true := rfl
@[simp] theorem State.permute_err (T : List Nat) (n : Nat) : (s.permute T n).err = false := rfl
@[simp] theorem State.permute_ksv (T : List Nat) (n : Nat) : (s.permute T n).ksv = s.ksv := rfl
@[simp] theorem State.permute_ovr (T : List Nat) (n : Nat) : (s.permute T n).ovr = s.ovr := rfl
@[simp] theorem State.permute_ecode (T : List Nat) (n : Nat) : (s.permute T n).ecode = 0 := rfl
@[simp] theorem State.permute_pending (T : List Nat) (n : Nat) : (s.permute T n).pending = s.pending := rfl
@[simp] theorem State.permute_program (T : List Nat) (n : Nat) : (s.permute T n).program = s.program := rfl
@[simp] theorem State.permute_hostPc (T : List Nat) (n : Nat) : (s.permute T n).hostPc = s.hostPc := rfl
@[simp] theorem State.permute_response (T : List Nat) (n : Nat) : (s.permute T n).response = s.response := rfl
@[simp] theorem State.permute_turns (T : List Nat) (n : Nat) : (s.permute T n).turns = s.turns := rfl

/-- An error report is the completion with a code (45_control.md R243). -/
theorem State.raise_eq (e : ErrorCode) : s.raise e = s.complete (some e) := rfl

@[simp] theorem ecodeOf_none : ecodeOf none = 0 := rfl
@[simp] theorem ecodeOf_some (e : ErrorCode) : ecodeOf (some e) = e.code := rfl

end Sys2Proof.Machine
end

