-- ==== Sys2Proof/Laws/Bus.lean ====
section
/-! SUPPORT. The register map and the host's accesses: one lemma for each shared operation. -/

namespace Sys2Proof.Machine

/-- The map takes every register's offset back to the register (20_memory.md R74). -/
theorem regAt_off (r : Reg) : regAt r.off = some r := by
  cases r with
  | ptab w => revert w; decide
  | skHi i => revert i; decide
  | skLo i => revert i; decide
  | _ => rfl

theorem off_lt_window (r : Reg) : r.off < Config.windowBytes := by
  cases r with
  | ptab w => simp [Reg.off, Config.windowBytes]; omega
  | skHi i => simp [Reg.off, Config.windowBytes]; omega
  | skLo i => simp [Reg.off, Config.windowBytes]; omega
  | _ => decide

theorem target_off (r : Reg) : target r.off .w32 = some r := by simp [target, regAt_off]

/-- A 32-bit read at a register's offset. -/
theorem hostRead_off (s : State) (r : Reg) : s.hostRead r.off .w32 = (.okay, s.readReg r) := by
  simp [State.hostRead, target_off]

/-- A 32-bit write at a register's offset, the engine idle (20_memory.md R82). -/
theorem hostWrite_off (s : State) (r : Reg) (v : Word) (hb : s.busy = false) (hr : r ≠ .status) :
    s.hostWrite r.off .w32 v = (s.writeReg r v, .okay) := by
  simp [State.hostWrite, target_off, hb, hr]

/-- Everything a host write can do (20_memory.md R82). -/
theorem hostWrite_cases (s : State) (off : Nat) (w : Width) (v : Word) :
    (target off w = none ∧ s.hostWrite off w v = (s, .slverr)) ∨
    (target off w = some .status ∧ s.hostWrite off w v = (s.writeStatus v, .okay)) ∨
    (∃ r, target off w = some r ∧ r ≠ .status ∧ s.busy = true ∧
      s.hostWrite off w v = (s.overrun, .okay)) ∨
    (∃ r, target off w = some r ∧ r ≠ .status ∧ s.busy = false ∧
      s.hostWrite off w v = (s.writeReg r v, .okay)) := by
  unfold State.hostWrite
  cases h : target off w with
  | none => simp
  | some r =>
    by_cases hr : r = .status
    · simp [hr]
    · cases hb : s.busy <;> simp [hr]

/-- A write of STATUS touches OVR only (20_memory.md R81). -/
theorem writeStatus_eq (s : State) (v : Word) :
    s.writeStatus v = { s with ovr := s.ovr && !v.getLsbD 4 } := by
  unfold State.writeStatus
  cases h : v.getLsbD 4 <;> simp

/-- What a register write leaves alone: SK, the results, KSV, OVR and the other agents' fields. -/
theorem writeReg_frame (s : State) (r : Reg) (v : Word) :
    (s.writeReg r v).sk = s.sk ∧ (s.writeReg r v).fOut = s.fOut ∧ (s.writeReg r v).bitres = s.bitres ∧
    (s.writeReg r v).ksv = s.ksv ∧ (s.writeReg r v).ovr = s.ovr ∧ (s.writeReg r v).program = s.program ∧
    (s.writeReg r v).hostPc = s.hostPc ∧ (s.writeReg r v).response = s.response ∧
    (s.writeReg r v).turns = s.turns := by
  cases r <;> exact ⟨rfl, rfl, rfl, rfl, rfl, rfl, rfl, rfl, rfl⟩

/-- A register write that is not an acceptance leaves STATUS and PENDING alone. -/
theorem writeReg_status (s : State) (r : Reg) (v : Word) (h : r ≠ .cmd) :
    (s.writeReg r v).busy = s.busy ∧ (s.writeReg r v).done = s.done ∧ (s.writeReg r v).err = s.err ∧
    (s.writeReg r v).ecode = s.ecode ∧ (s.writeReg r v).pending = s.pending := by
  cases r <;> first | exact absurd rfl h | exact ⟨rfl, rfl, rfl, rfl, rfl⟩

/-- While busy a host write changes OVR at most (20_memory.md R81, R82). -/
theorem hostWrite_busy (s : State) (off : Nat) (w : Width) (v : Word) (hb : s.busy = true) :
    (s.hostWrite off w v).1 = { s with ovr := (s.hostWrite off w v).1.ovr } := by
  rcases hostWrite_cases s off w v with ⟨-, h⟩ | ⟨-, h⟩ | ⟨r, -, -, -, h⟩ | ⟨r, -, -, hf, -⟩
  · rw [h]
  · rw [h, writeStatus_eq]
  · rw [h]; rfl
  · simp [hb] at hf

/-- A bus write is the engine's host write inside the window and nothing outside (20_memory.md R70). -/
theorem busWrite_state (s : State) (off : Nat) (w : Width) (v : Word) :
    (s.busWrite off w v).1 = if off < Config.windowBytes then (s.hostWrite off w v).1 else s := by
  unfold State.busWrite
  split <;> rfl

/-- The bytes of a PTAB word are its four entries, the first the most significant (20_memory.md R76). -/
theorem readPtab_byte (t : Vector Byte 64) (w : Fin 16) (j : Fin 4) :
    (readPtab t w).extractLsb' (24 - 8 * j.val) 8 = t[4 * w.val + j.val] := by
  apply BitVec.eq_of_getLsbD_eq
  intro i hi
  rw [BitVec.getLsbD_extractLsb', readPtab]
  change (decide (i < 8) && BitVec.getLsbD (w := 8 + 8 + 8 + 8) _ _) = _
  simp only [BitVec.getLsbD_append, hi, decide_true, Bool.true_and]
  fin_cases j <;> simp only [] <;> (repeat' split) <;> first | omega | (congr 1; omega)

end Sys2Proof.Machine
end

