-- ==== Sys2Proof/Laws/PerInstr.lean ====
section
/-! SUPPORT. Laws stated instruction by instruction: the word of an instruction is in its own row of the opcode map. -/

namespace Sys2Proof.Laws.EncodedRow

/-- The place of an instruction's row in the opcode map (30_encoding.md R105). -/
def rowIndex : Instr → Nat
  | .nop => 0
  | .keyprep => 1
  | .keysched => 2
  | .enc => 3
  | .dec => 4
  | .ffunc => 5
  | .getbit _ _ => 6
  | .putbit _ _ _ => 7
  | .perm _ => 8
  | .permIp => 9
  | .permFp => 10
  | .permE => 11
  | .permP => 12
  | .permPc1 => 13
  | .permPc2 => 14

/-- The word of a well-formed instruction has the match bits of its row under the row's mask. -/
def Statement (i : Instr) : Prop :=
  i.wf = true → (opRows[rowIndex i]?.map fun r => r.hits (encode i)) = some true

theorem nop : Statement .nop := fun _ => by decide
theorem keyprep : Statement .keyprep := fun _ => by decide
theorem keysched : Statement .keysched := fun _ => by decide
theorem enc : Statement .enc := fun _ => by decide
theorem dec : Statement .dec := fun _ => by decide
theorem ffunc : Statement .ffunc := fun _ => by decide

theorem getbit (plane : Plane) (idx : Nat) : Statement (.getbit plane idx) := by
  intro h
  have key : ∀ i < 128, (opRows[6]?.map fun r => r.hits (encode (.getbit plane i))) = some true := by
    cases plane <;> decide +kernel
  exact key idx (by simpa [Instr.wf, fitsIdx] using h)

theorem putbit (plane : Plane) (idx : Nat) (v : Bool) : Statement (.putbit plane idx v) := by
  intro h
  have key : ∀ i < 128, (opRows[7]?.map fun r => r.hits (encode (.putbit plane i v))) = some true := by
    cases plane <;> cases v <;> decide +kernel
  exact key idx (by simpa [Instr.wf, fitsIdx] using h)

theorem perm (n : Nat) : Statement (.perm n) := by
  intro h
  have key : ∀ i < 128, (opRows[8]?.map fun r => r.hits (encode (.perm i))) = some true := by decide +kernel
  exact key n (by simpa [Instr.wf, fitsIdx] using h)

theorem permIp : Statement .permIp := fun _ => by decide
theorem permFp : Statement .permFp := fun _ => by decide
theorem permE : Statement .permE := fun _ => by decide
theorem permP : Statement .permP := fun _ => by decide
theorem permPc1 : Statement .permPc1 := fun _ => by decide
theorem permPc2 : Statement .permPc2 := fun _ => by decide

end Sys2Proof.Laws.EncodedRow
end

