-- ==== Sys2Proof/Laws/Step.lean ====
section
/-! SUPPORT. What an instruction's execution and one step can do, said once. -/

namespace Sys2Proof.Machine

/-- Everything an instruction can do to the state: complete without an error over an update of its own result
registers, or report one error and write STATUS alone (45_control.md R241 to R243). -/
theorem exec_cases (i : Instr) (s : State) :
    (∃ key blk sk fOut bitres pin pout ksv,
      exec i s = .next
        ({ s with key := key, blk := blk, sk := sk, fOut := fOut, bitres := bitres, pin := pin, pout := pout,
                  ksv := ksv }.complete none) ∧
      ((sk = s.sk ∧ ksv = s.ksv) ∨ (i = .keysched ∧ ksv = true))) ∨
    (∃ e, exec i s = .next (s.complete (some e)) ∧ e ≠ .illegalCmd) := by
  cases i with
  | nop => exact .inl ⟨s.key, s.blk, s.sk, s.fOut, s.bitres, s.pin, s.pout, s.ksv, rfl, .inl ⟨rfl, rfl⟩⟩
  | keyprep => exact .inl ⟨_, s.blk, s.sk, s.fOut, s.bitres, s.pin, s.pout, s.ksv, rfl, .inl ⟨rfl, rfl⟩⟩
  | keysched => exact .inl ⟨s.key, s.blk, _, s.fOut, s.bitres, s.pin, s.pout, _, rfl, .inr ⟨rfl, rfl⟩⟩
  | enc =>
    simp only [exec, execEnc]
    split
    · exact .inl ⟨s.key, _, s.sk, s.fOut, s.bitres, s.pin, s.pout, s.ksv, rfl, .inl ⟨rfl, rfl⟩⟩
    · exact .inr ⟨_, rfl, by decide⟩
  | dec =>
    simp only [exec, execDec]
    split
    · exact .inl ⟨s.key, _, s.sk, s.fOut, s.bitres, s.pin, s.pout, s.ksv, rfl, .inl ⟨rfl, rfl⟩⟩
    · exact .inr ⟨_, rfl, by decide⟩
  | ffunc => exact .inl ⟨s.key, s.blk, s.sk, _, s.bitres, s.pin, s.pout, s.ksv, rfl, .inl ⟨rfl, rfl⟩⟩
  | getbit p i =>
    simp only [exec, execGetbit]
    split
    · exact .inl ⟨s.key, s.blk, s.sk, s.fOut, _, s.pin, s.pout, s.ksv, rfl, .inl ⟨rfl, rfl⟩⟩
    · exact .inr ⟨_, rfl, by decide⟩
  | putbit p i v =>
    simp only [exec, execPutbit]
    split
    · cases p
      · exact .inl ⟨s.key, s.blk, s.sk, s.fOut, s.bitres, _, s.pout, s.ksv, rfl, .inl ⟨rfl, rfl⟩⟩
      · exact .inl ⟨s.key, s.blk, s.sk, s.fOut, s.bitres, s.pin, _, s.ksv, rfl, .inl ⟨rfl, rfl⟩⟩
    · exact .inr ⟨_, rfl, by decide⟩
  | perm n =>
    simp only [exec, execPerm]
    split
    · exact .inl ⟨s.key, s.blk, s.sk, s.fOut, s.bitres, s.pin, _, s.ksv, rfl, .inl ⟨rfl, rfl⟩⟩
    · exact .inr ⟨_, rfl, by decide⟩
  | permIp => exact .inl ⟨s.key, s.blk, s.sk, s.fOut, s.bitres, s.pin, _, s.ksv, rfl, .inl ⟨rfl, rfl⟩⟩
  | permFp => exact .inl ⟨s.key, s.blk, s.sk, s.fOut, s.bitres, s.pin, _, s.ksv, rfl, .inl ⟨rfl, rfl⟩⟩
  | permE => exact .inl ⟨s.key, s.blk, s.sk, s.fOut, s.bitres, s.pin, _, s.ksv, rfl, .inl ⟨rfl, rfl⟩⟩
  | permP => exact .inl ⟨s.key, s.blk, s.sk, s.fOut, s.bitres, s.pin, _, s.ksv, rfl, .inl ⟨rfl, rfl⟩⟩
  | permPc1 => exact .inl ⟨s.key, s.blk, s.sk, s.fOut, s.bitres, s.pin, _, s.ksv, rfl, .inl ⟨rfl, rfl⟩⟩
  | permPc2 => exact .inl ⟨s.key, s.blk, s.sk, s.fOut, s.bitres, s.pin, _, s.ksv, rfl, .inl ⟨rfl, rfl⟩⟩

/-- Everything one step can be: the host's turn, an idle engine, a command's step, or a reset. -/
theorem step_cases (s : State) :
    (∃ ts, step s = .next (s.withTurns ts).hostTurn ∧
      (s.turns = .host :: ts ∨ (s.turns = [] ∧ ts = [] ∧ s.pending = none))) ∨
    (∃ ts, step s = .next (s.withTurns ts) ∧ s.turns = .engine :: ts ∧ s.pending = none) ∨
    (∃ ts c, step s = (s.withTurns ts).runWord c ∧ s.pending = some c ∧
      (s.turns = .engine :: ts ∨ (s.turns = [] ∧ ts = []))) ∨
    (∃ ts, step s = .next (s.withTurns ts).resetTurn ∧ s.turns = .reset :: ts) := by
  rcases ht : s.turns with _ | ⟨_ | _ | _, ts⟩
  · have hs : s.withTurns [] = s := by rw [← ht]; rfl
    rcases Option.eq_none_or_eq_some s.pending with hp | ⟨c, hp⟩
    · exact .inl ⟨[], by rw [hs]; simp [step, ht, hp], .inr ⟨rfl, rfl, hp⟩⟩
    · exact .inr (.inr (.inl ⟨[], c, by rw [hs]; simp [step, ht, hp, State.engineTurn], hp, .inr ⟨rfl, rfl⟩⟩))
  · exact .inl ⟨ts, by simp only [step, ht], .inl rfl⟩
  · rcases hp : s.pending with _ | c
    · exact .inr (.inl ⟨ts, by simp [step, ht, State.engineTurn, hp], rfl, rfl⟩)
    · exact .inr (.inr (.inl ⟨ts, c, by simp [step, ht, State.engineTurn, hp], rfl, .inl rfl⟩))
  · exact .inr (.inr (.inr ⟨ts, by simp only [step, ht], rfl⟩))

@[simp] theorem runSteps_zero (s : State) : runSteps 0 s = .next s := rfl

/-- One step of any machine behind the interface, and then the rest of the run. -/
theorem core_run_succ (M : Host.Core) {k : Nat} {s t : M.State} (h : M.step s = .next t) :
    M.run (k + 1) s = M.run k t := by
  rw [Host.Core.run, h]

/-- One step and then the rest of the run. -/
theorem runSteps_succ {k : Nat} {s t : State} (h : step s = .next t) : runSteps (k + 1) s = runSteps k t :=
  core_run_succ Sys2Proof.core h

/-- Everything the host's turn can be: one statement, or nothing at the end of the program. -/
theorem hostTurn_cases (s : State) :
    (s.program[s.hostPc]? = none ∧ s.hostTurn = s) ∨
    (∃ off w v, s.program[s.hostPc]? = some (.write off w v) ∧
      s.hostTurn = (s.busWrite off w v).1.advanceHost (s.hostPc + 1) (s.busWrite off w v).2) ∨
    (∃ st pc r, s.program[s.hostPc]? = some st ∧ (∀ off w v, st ≠ .write off w v) ∧
      s.hostTurn = s.advanceHost pc r) := by
  unfold State.hostTurn
  rcases h : s.program[s.hostPc]? with _ | ⟨off, w, v⟩ | ⟨off, w⟩ | ⟨r, m, t⟩
  · exact .inl ⟨rfl, rfl⟩
  · exact .inr (.inl ⟨off, w, v, rfl, rfl⟩)
  · exact .inr (.inr ⟨_, _, _, rfl, by simp, rfl⟩)
  · exact .inr (.inr ⟨_, _, _, rfl, by simp, rfl⟩)

end Sys2Proof.Machine
end

