-- ==== Sys2Proof/Tests/Slice0.lean ====
section
/-! SUPPORT. Tests. The expected values are the spec's: 95_test_vectors.md and the examples of the command rules. The
`witness_` theorems show states and operands that meet the hypotheses of the obligations. -/

-- One theorem at a time: a hundred kernel evaluations at once would each hold a thread.
set_option Elab.async false

namespace Sys2Proof.Tests

open Sys2Proof Sys2Proof.Machine

/-! ### Well-formedness refuses each ill-formed term -/

theorem test_wf_getbit : Instr.wf (.getbit .pin 128) = false ∧ Instr.wf (.getbit .pin 127) = true := by decide
theorem test_wf_putbit : Instr.wf (.putbit .pout 128 true) = false ∧ Instr.wf (.putbit .pout 0 false) = true := by
  decide
theorem test_wf_perm : Instr.wf (.perm 128) = false ∧ Instr.wf (.perm 127) = true := by decide

/-! ### Decoding words written out from 30_encoding.md R101, R104, R105 -/

theorem test_decode_nop : decode 0b00000000_0000_00_0_0_0_0000000_00000000 = some .nop := by decide
theorem test_decode_keyprep : decode 0b00000000_0000_00_0_0_0_0000000_00000001 = some .keyprep := by decide
theorem test_decode_keysched : decode 0b00000000_0000_00_0_0_0_0000000_00000010 = some .keysched := by decide
theorem test_decode_enc : decode 0b00000000_0000_00_0_0_0_0000000_00000011 = some .enc := by decide
theorem test_decode_dec : decode 0b00000000_0000_00_0_0_0_0000000_00000100 = some .dec := by decide
theorem test_decode_ffunc : decode 0b00000000_0000_00_0_0_0_0000000_00000101 = some .ffunc := by decide
theorem test_decode_getbit :
    decode 0b00000000_0000_00_0_1_0_1000001_00000110 = some (.getbit .pout 65) := by decide
theorem test_decode_putbit :
    decode 0b00000000_0000_00_1_0_0_0000010_00000111 = some (.putbit .pin 2 true) := by decide
theorem test_decode_perm : decode 0b00000000_0000_00_0_0_0_0110000_00001000 = some (.perm 48) := by decide
theorem test_decode_permIp : decode 0b00000000_0001_00_0_0_0_0000000_00001000 = some .permIp := by decide
theorem test_decode_permFp : decode 0b00000000_0010_00_0_0_0_0000000_00001000 = some .permFp := by decide
theorem test_decode_permE : decode 0b00000000_0011_00_0_0_0_0000000_00001000 = some .permE := by decide
theorem test_decode_permP : decode 0b00000000_0100_00_0_0_0_0000000_00001000 = some .permP := by decide
theorem test_decode_permPc1 : decode 0b00000000_0101_00_0_0_0_0000000_00001000 = some .permPc1 := by decide
theorem test_decode_permPc2 : decode 0b00000000_0110_00_0_0_0_0000000_00001000 = some .permPc2 := by decide

/-- The ILLEGAL rows of 95_test_vectors.md 2.7, one for each kind of R107, the illegal clause's edges among them. -/
theorem test_decode_illegal :
    [0x00000100, 0x00008006, 0x00040006, 0x00028007, 0x00700008, 0x00F00008, 0x00100108, 0x000000FF, 0x00000009,
      0x01000003, 0x00020006, 0x00040007, 0x00008008, 0x00010008, 0x01000008, 0x00108008, 0x01600008].map decode =
      List.replicate 17 none := by decide +kernel

/-! ### One command each, as the next step (95_test_vectors.md 2.1 to 2.7) -/

/-- The next state of a result, if it is one. -/
def nextOf : Result → Option State
  | .next t => some t
  | _ => none

/-- The state after a command word is accepted and executed. -/
def after (s : State) (w : Nat) : State := (nextOf (step (s.withFetchWord 32 w))).getD s

theorem test_nop_from_reset : (after State.reset 0x00000000).readReg .status = 0x00000002 := by decide +kernel
theorem test_accepted_busy : (State.reset.accept 0x00000003).readReg .status = 0x00000001 := by decide +kernel

theorem test_keyprep_stops_at_nul :
    (after { State.reset with ktext := 0x6162006364656667 } 0x01).key = 0x6162000000000000 := by decide +kernel
theorem test_keyprep_full :
    (after { State.reset with ktext := 0x3132333435363738 } 0x01).key = 0x3132333435363738 := by decide +kernel

/-- The first schedule of 95_test_vectors.md 2.4, of the key 13345779_9BBCDFF1. -/
def firstSchedule : Vector Subkey 16 :=
  #v[0x1B02EFFC7072, 0x79AED9DBC9E5, 0x55FC8A42CF99, 0x72ADD6DB351D, 0x7CEC07EB53A8, 0x63A53E507B2F,
    0xEC84B7F618BC, 0xF78A3AC13BFB, 0xE0DBEBEDE781, 0xB1F347BA464F, 0x215FD3DED386, 0x7571F59467E9,
    0x97C5D1FABA41, 0x5F43B7F2E73A, 0xBF918D3D3F0A, 0xCB3D8B0E17F5]

/-- An engine that holds the first schedule. -/
def scheduled : State := { State.reset with sk := firstSchedule, ksv := true }

theorem test_keysched_first : (after { State.reset with key := 0x133457799BBCDFF1 } 0x02).sk = firstSchedule := by
  decide +kernel
theorem test_keysched_pass :
    (after { State.reset with key := 0x7061737300000000 } 0x02).sk[15] = 0x90A8220021C0 := by decide +kernel

theorem test_enc_vector : (after { scheduled with blk := 0x0123456789ABCDEF } 0x03).blk = 0x85E813540F0AB405 := by
  decide +kernel
theorem test_enc_no_schedule : (after State.reset 0x03).readReg .status = 0x00000406 := by decide +kernel
theorem test_dec_vector : (after { scheduled with blk := 0x0123456789ABCDEF } 0x04).blk = 0xEE0F7C12E0B09338 := by
  decide +kernel
theorem test_dec_inverse : (after { scheduled with blk := 0x85E813540F0AB405 } 0x04).blk = 0x0123456789ABCDEF := by
  decide +kernel

theorem test_ffunc_round1 :
    (after { State.reset with fR := 0xF0AAF0AA, fK := 0x1B02EFFC7072 } 0x05).fOut = 0x234AA9BB := by decide +kernel
theorem test_ffunc_no_key : (after { State.reset with fR := 0x12345678 } 0x05).fOut = 0x5101D5DD := by
  decide +kernel

theorem test_getbit_ends :
    [0x0106, 0x0206, 0x0806, 0x0906, 0x4006].map
      (fun w => (after { State.reset with pin := 0x8000000000000001 } w).readReg .bitres) = [1, 0, 0, 0, 1] := by
  decide +kernel
theorem test_getbit_range :
    [0x0006, 0x4106].map (fun w => (after State.reset w).readReg .status) = [0x206, 0x206] := by decide +kernel

theorem test_putbit_pout :
    (after State.reset 0x00030807).pout = 0x0100000000000000 ∧ (after State.reset 0x00034007).pout = 1 := by
  decide +kernel
theorem test_putbit_pin_clear_and_range :
    (after { State.reset with pin := 0xFFFFFFFFFFFFFFFF } 0x00004007).pin = 0xFFFFFFFFFFFFFFFE ∧
      (after State.reset 0x00007F07).readReg .status = 0x206 := by decide +kernel

/-- PTAB[k] = k for k = 1..64. -/
def identityTable : Vector Byte 64 := Vector.ofFn fun k => BitVec.ofNat 8 (k.val + 1)

/-- PTAB = 1, 2, 3, 4, 65, 0, …: five entries, the fifth past the plane. -/
def shortTable : Vector Byte 64 :=
  Vector.ofFn fun k => if k.val < 4 then BitVec.ofNat 8 (k.val + 1) else if k.val = 4 then 65 else 0

theorem test_perm_identity12 :
    (after { State.reset with ptab := identityTable, pin := 0xFFFFFFFFFFFFFFFF, pout := 0x1122334455667788 }
      0x0C08).pout = 0xFFF0334455667788 := by decide +kernel
theorem test_perm_range :
    [0x4008, 0x4108, 0x0008, 0x0408, 0x0508].map
      (fun w => (after { State.reset with ptab := shortTable } w).readReg .status) =
        [0x306, 0x306, 0x002, 0x002, 0x306] := by decide +kernel

theorem test_permIp : (after { State.reset with pin := 0x0123456789ABCDEF } 0x00100008).pout = 0xCC00CCFFF0AAF0AA := by
  decide +kernel
theorem test_permFp : (after { State.reset with pin := 0xCC00CCFFF0AAF0AA } 0x00200008).pout = 0x0123456789ABCDEF := by
  decide +kernel
theorem test_permE :
    (after { State.reset with pin := 0xF0AAF0AA00000000, pout := 0xFFFFFFFFFFFFFFFF } 0x00300008).pout =
      0x7A15557A1555FFFF := by decide +kernel
theorem test_permP :
    (after { State.reset with pin := 0x5C82B59700000000, pout := 0xFFFFFFFFFFFFFFFF } 0x00400008).pout =
      0x234AA9BBFFFFFFFF := by decide +kernel
theorem test_permPc1 :
    (after { State.reset with pin := 0x133457799BBCDFF1, pout := 0xFFFFFFFFFFFFFFFF } 0x00500008).pout =
      0xF0CCAAF556678FFF := by decide +kernel
theorem test_permPc2 :
    (after { State.reset with pin := 0xE19955FAACCF1E00 } 0x00600008).pout = 0x1B02EFFC70720000 := by decide +kernel

/-- 2.7: an illegal word completes with ILLEGAL_CMD, before BIT_RANGE. -/
theorem test_illegal_status : (after State.reset 0x00028007).readReg .status = 0x106 := by decide +kernel

/-- 2.2: the S-box spot values. -/
theorem test_sbox_spots :
    (List.range 8).map (fun j => (sboxAt (j + 1) 0x00).toNat) = [14, 15, 10, 7, 2, 12, 4, 13] ∧
    (List.range 8).map (fun j => (sboxAt (j + 1) 0x3F).toNat) = [13, 9, 12, 14, 3, 13, 12, 11] ∧
    (List.range 8).map (fun j => (sboxAt (j + 1) 0x01).toNat) = [0, 3, 13, 13, 14, 10, 13, 1] ∧
    (List.range 8).map (fun j => (sboxAt (j + 1) 0x20).toNat) = [4, 0, 13, 10, 4, 9, 1, 7] ∧
    (List.range 8).map (fun j => (sboxAt (j + 1) 0x21).toNat) = [15, 13, 1, 3, 11, 4, 6, 2] ∧
    (List.range 8).map (fun j => (sboxAt (j + 1) 0x1E).toNat) = [7, 10, 8, 15, 9, 11, 1, 7] := by decide +kernel

/-! ### The bus (95_test_vectors.md 2.8) -/

theorem test_bus_slverr :
    State.reset.hostWrite 0x002 .w32 1 = (State.reset, .slverr) ∧ State.reset.hostRead 0x048 .w32 = (.slverr, 0) ∧
      State.reset.hostRead 0x1FC .w32 = (.slverr, 0) ∧ State.reset.hostRead 0x008 .w8 = (.slverr, 0) := by
  decide +kernel
theorem test_bus_read_only :
    State.reset.hostWrite 0x100 .w32 0x1234 = (State.reset, .okay) ∧
      State.reset.hostWrite 0x034 .w32 0x1234 = (State.reset, .okay) := by decide +kernel
theorem test_bus_len :
    (State.reset.hostWrite 0x020 .w32 9).1.hostRead 0x020 .w32 = (.okay, 0) ∧
      (State.reset.hostWrite 0x020 .w32 8).1.hostRead 0x020 .w32 = (.okay, 8) := by decide +kernel
theorem test_bus_reserved_bits :
    (State.reset.hostWrite 0x02C .w32 0xFFFFFFFF).1.hostRead 0x02C .w32 = (.okay, 0x0000FFFF) := by decide +kernel
theorem test_bus_ptab0 :
    (State.reset.hostWrite 0x080 .w32 0x11223344).1.userTable.take 5 = [0x11, 0x22, 0x33, 0x44, 0] := by
  decide +kernel
theorem test_bus_overrun :
    ((State.reset.accept 0).hostWrite 0x018 .w32 0xDEADBEEF).1.readReg .status = 0x11 ∧
      ((State.reset.accept 0).hostWrite 0x000 .w32 3).1.pending = some 0 ∧
      (((State.reset.accept 0).overrun.hostWrite 0x004 .w32 0x10).1.readReg .status = 0x01) := by decide +kernel

/-! ### The assembler -/

/-- The words of 95_test_vectors.md 2.1; `PERM 128` is refused, not truncated (30_encoding.md R109). -/
theorem test_assemble_commands :
    assembleCommand "GETBIT POUT, 1".toList = some 0x00010106 ∧
    assembleCommand "PUTBIT POUT, 64, 1".toList = some 0x00034007 ∧
    assembleCommand "PERM 0x41".toList = some 0x00004108 ∧
    assembleCommand "PERM.PC1".toList = some 0x00500008 ∧
    assembleCommand "PERM 128".toList = none ∧
    assembleCommand "PUTBIT PIN, 1, 2".toList = none := by decide +kernel

/-- Program P6 of 95_test_vectors.md: the bus accesses and branch targets its listing names. -/
theorem test_assemble_p6 :
    assemble
      ["        LD64 BLK, 0x0123456789ABCDEF      ; WR BLK_HI 01234567 ; WR BLK_LO 89ABCDEF".toList,
       "start:  ISSUE ENC                         ; WR CMD 00000003".toList,
       "w1:     BNZ STATUS, 0x1, w1               ; wait while BUSY".toList,
       "        BNZ STATUS, 0x4, fix              ; ERR set: no schedule yet".toList,
       "        BNZ STATUS, 0x2, done".toList,
       "fix:    LD64 KEY, 0x133457799BBCDFF1".toList,
       "        ISSUE KEYSCHED".toList,
       "w2:     BNZ STATUS, 0x1, w2".toList,
       "        BNZ STATUS, 0x8, start            ; KSV set: retry ENC".toList,
       "done:   RD BLK_HI".toList,
       "        RD BLK_LO".toList,
       "        RD STATUS".toList] =
    some ([.write 0x018 .w32 0x01234567, .write 0x01C .w32 0x89ABCDEF, .write 0x000 .w32 3, .bnz .status 1 3,
      .bnz .status 4 6, .bnz .status 2 11, .write 0x008 .w32 0x13345779, .write 0x00C .w32 0x9BBCDFF1] ++
      [.write 0x000 .w32 2, .bnz .status 1 9, .bnz .status 8 2, .read 0x018 .w32, .read 0x01C .w32,
      .read 0x004 .w32]) := by decide +kernel

/-- P3's F_K and P2's first PTAB words, with the rest of the table 0 (30_encoding.md R112). -/
theorem test_assemble_tables :
    (assemble ["LD48 F_K, 0x1B02EFFC7072".toList]) =
      some [.write 0x02C .w32 0x00001B02, .write 0x030 .w32 0xEFFC7072] ∧
    ((assemble ["LDTAB 58,50,42,34,26,18,10,2".toList]).map fun p => (p.take 3, p.length)) =
      some ([.write 0x080 .w32 0x3A322A22, .write 0x084 .w32 0x1A120A02, .write 0x088 .w32 0], 16) := by
  decide +kernel

/-! ### Witnesses: the hypotheses of the obligations can be met -/

/-- A busy state: command `c` accepted from reset, and the events to come. -/
def pendingState (c : Word) (ts : List Turn) : State := (State.reset.accept c).withTurns ts

/-- A host at a statement, its turn next. -/
def hostAt (st : HostStmt) : State := { State.reset with program := [st], turns := [.host] }

/-- DecodeEncodeRoundTrip. -/
theorem witness_wf : Instr.wf (.putbit .pout 127 true) = true ∧ Instr.wf (.getbit .pin 0) = true := by decide

/-- EncodingOfDecodedWordIsTheWord, OpcodeRowsAreDisjoint. -/
theorem witness_decoded : decode 0x00037F07 = some (.putbit .pout 127 true) ∧
    (opRows[7]?.map fun r => r.hits 0x00037F07) = some true := by decide

/-- IllegalWordsAreThoseListed, ErrorsWriteOnlyStatus, ErrorCodesBelongToTheirCommands (code 1). -/
theorem witness_illegal : (pendingState 0x00000009 []).pending = some 0x00000009 ∧ decode 0x00000009 = none ∧
    nextOf (pendingState 0x00000009 []).engineTurn =
      some { State.reset with done := true, err := true, ecode := 1 } := by decide +kernel

/-- AssembledWordsDecode: a line that is taken, and lines whose operand is just past its field. -/
theorem witness_assembled : assembleCommand "PERM 127".toList = some 0x00007F08 ∧
    readInstr (headWord "PERM 127".toList) (operandsOf (tailText "PERM 127".toList)) = some (.perm 127) ∧
    readInstr (headWord "PERM 128".toList) (operandsOf (tailText "PERM 128".toList)) = some (.perm 128) ∧
    Instr.wf (.perm 128) = false := by decide +kernel

/-- CommandTextAssembles: one number in its two written forms. -/
theorem witness_numbers : Nat.toDigits 10 127 = "127".toList ∧
    '0' :: 'x' :: Nat.toDigits 16 127 = "0x7f".toList := by decide +kernel

/-- StepRunsTheDecodedCommand: both clauses. -/
theorem witness_pending_engine : (pendingState 0x05 [.engine]).pending = some 0x05 ∧ decode 0x05 = some .ffunc ∧
    (pendingState 0x05 [.engine]).turns = .engine :: [] ∧ (pendingState 0x05 []).turns = [] := by decide +kernel

/-- PlacedWordRunsNext. -/
theorem witness_placed : decodeTableWord 32 0x00500008 = some .permPc1 := by decide

/-- EveryStepKeepsTheInvariant, PendingCommandCompletes, LatencyDoesNotChangeTheResult, BusyWritesAreDropped,
BusyHostTurnsKeepEveryOperand: a busy state, with the host to move first. -/
theorem witness_busy : (pendingState 0x02 [.host, .engine]).Inv ∧ (pendingState 0x02 [.host, .engine]).busy = true ∧
    (pendingState 0x02 [.host, .engine]).pending = some 0x02 ∧
    .reset ∉ (pendingState 0x02 [.host, .engine]).turns ∧
    nextOf (step (pendingState 0x02 [.host, .engine])) = some (pendingState 0x02 [.engine]) := by decide +kernel

/-- ScheduleChangesOnlyByKeyschedOrReset: a step that changes the schedule, and a reset that does. -/
theorem witness_schedule_changes :
    ({ State.reset with key := 0x133457799BBCDFF1 }.withFetchWord 32 2).turns.head? = some .engine ∧
    (nextOf (step ({ State.reset with key := 0x133457799BBCDFF1 }.withFetchWord 32 2))).map (·.sk) =
      some firstSchedule ∧ firstSchedule ≠ State.reset.sk ∧
    (nextOf (step (scheduled.withTurns [.reset]))).map (·.ksv) = some false := by decide +kernel

/-- OverrunIsSticky: OVR falls, and OVR rises. -/
theorem witness_overrun :
    (nextOf (step { hostAt (.write 0x004 .w32 0x10) with ovr := true })).map (·.ovr) = some false ∧
    (nextOf (step { hostAt (.write 0x018 .w32 1) with busy := true })).map (·.ovr) = some true := by
  decide +kernel

/-- ResetDiscardsEverything: with a command pending. -/
theorem witness_reset : (pendingState 0x02 [.reset]).turns = .reset :: [] ∧
    nextOf (step (pendingState 0x02 [.reset])) = some State.reset := by decide +kernel

/-- NoCommandWritesTheHostsRegisters, ErrorsWriteOnlyStatus (ERR = 1), ErrorCodesBelongToTheirCommands (code 2). -/
theorem witness_error : nextOf (exec (.getbit .pin 65) State.reset) =
      some { State.reset with done := true, err := true, ecode := 2 } ∧
    nextOf (pendingState 0x00004106 []).engineTurn =
      some { State.reset with done := true, err := true, ecode := 2 } := by
  decide +kernel

/-- KeyschedComputesTheSchedule: sequences that satisfy R181, for a key that is not constant. -/
theorem witness_keysched : ((halves 0x133457799BBCDFF1 0).1 ++ (halves 0x133457799BBCDFF1 0).2 : BitVec 56) =
      perm 56 tablePC1 0x133457799BBCDFF1#64 ∧
    ∀ i, i < 17 → 1 ≤ i →
      (halves 0x133457799BBCDFF1 i).1 = rotl28 (halves 0x133457799BBCDFF1 (i - 1)).1 (entry shiftTable i) ∧
      (halves 0x133457799BBCDFF1 i).2 = rotl28 (halves 0x133457799BBCDFF1 (i - 1)).2 (entry shiftTable i) := by
  decide +kernel

/-- L₀ … L₁₆ of the round trace of 95_test_vectors.md 2.6, and R₁₆. -/
def trace : List Half :=
  [0xCC00CCFF, 0xF0AAF0AA, 0xEF4A6544, 0xCC017709, 0xA25C0BF4, 0x77220045, 0x8A4FA637, 0xE967CD69, 0x064ABA10] ++
  [0xD5694B90, 0x247CC67A, 0xB7D5D7B2, 0xC5783C78, 0x75BD1858, 0x18C3155A, 0xC28C960D, 0x43423234, 0x0A4CD995]

/-- EncRunsSixteenRounds: the spec's trace satisfies R206 (Lᵢ and Rᵢ = Lᵢ₊₁), with KSV = 1; and KSV = 0. -/
theorem witness_enc : scheduled.ksv = true ∧ State.reset.ksv = false ∧
    (trace.getD 0 0 ++ trace.getD 1 0 : Block) = perm 64 tableIP 0x0123456789ABCDEF#64 ∧
    ∀ i : Fin 16, trace.getD (i.val + 1) 0 = trace.getD (i.val + 1) 0 ∧
      trace.getD (i.val + 2) 0 = trace.getD i.val 0 ^^^ feistel (trace.getD (i.val + 1) 0) firstSchedule[i] := by
  decide +kernel

/-- DecRunsTheRoundsInReverse: the trace from its end satisfies R206 with the keys in reverse order. -/
theorem witness_dec :
    (trace.getD 17 0 ++ trace.getD 16 0 : Block) = perm 64 tableIP 0x85E813540F0AB405#64 ∧
    ∀ i : Fin 16, trace.getD (16 - i.val) 0 = trace.getD (16 - i.val) 0 ∧
      trace.getD (15 - i.val) 0 =
        trace.getD (17 - i.val) 0 ^^^ feistel (trace.getD (16 - i.val) 0) (firstSchedule[15 - i.val]'(by omega)) := by
  decide +kernel

/-- GetbitReadsTheNamedBit, PutbitWritesOnlyTheNamedBit: positions at the two ends of each clause. -/
theorem witness_positions : (1 ≤ 1 ∧ 1 ≤ 64) ∧ (1 ≤ 64 ∧ 64 ≤ 64) ∧ (0 = 0 ∨ 65 ≤ 0) ∧ (65 = 0 ∨ 65 ≤ 65) ∧
    decode 0x00034007 = some (.putbit .pout 64 true) ∧ decode 0x00004106 = some (.getbit .pin 65) := by decide

/-- PermFollowsTheUserTable: the whole plane by the identity table, and the two ways to miss the range. -/
theorem witness_perm :
    (∀ k : Fin 64, k.val < 64 → 1 ≤ (identityTable[k]).toNat ∧ (identityTable[k]).toNat ≤ 64) ∧
    (∀ k : Fin 64, k.val < 4 → 1 ≤ (shortTable[k]).toNat ∧ (shortTable[k]).toNat ≤ 64) ∧
    (∃ k : Fin 64, k.val < 5 ∧ ((shortTable[k]).toNat = 0 ∨ 65 ≤ (shortTable[k]).toNat)) ∧
    (∃ k : Fin 64, k.val < 1 ∧ ((State.reset.ptab[k]).toNat = 0 ∨ 65 ≤ (State.reset.ptab[k]).toNat)) := by
  decide +kernel

/-- IdentityTableCopiesThePrefix. -/
theorem witness_identity : ∀ k : Fin 64, k.val < 64 → (identityTable[k]).toNat = k.val + 1 := by decide +kernel

/-- DecUndoesEnc: a schedule, and a schedule of sixteen equal subkeys. -/
theorem witness_equal_subkeys : scheduled.ksv = true ∧ { State.reset with ksv := true }.ksv = true ∧
    ∀ i : Fin 16, { State.reset with ksv := true }.sk[i] = { State.reset with ksv := true }.sk[0] := by decide +kernel

/-- ParityBitsAreNeverRead: two keys that differ in every parity bit and in no other. -/
theorem witness_parity : 0x133457799BBCDFF1#64 ≠ 0x123556789ABDDEF0 ∧ ∀ j, j < 65 → 1 ≤ j → j % 8 ≠ 0 →
    desBit 0x133457799BBCDFF1#64 j = desBit 0x123556789ABDDEF0#64 j := by decide +kernel

/-- ConstantHalvesGiveConstantSchedules: C₀ of ones and D₀ of zeros. -/
theorem witness_constant_halves :
    (∀ j, j < 29 → 1 ≤ j → desBit (perm 56 tablePC1 0xE0E0E0E0F0F0F0F0#64) j = true) ∧
    (∀ j, j < 57 → 29 ≤ j → desBit (perm 56 tablePC1 0xE0E0E0E0F0F0F0F0#64) j = false) := by decide +kernel

/-- ReadsChangeNoRegister. -/
theorem witness_read : (hostAt (.read 0x048 .w8)).turns = .host :: [] ∧
    (hostAt (.read 0x048 .w8)).program[(hostAt (.read 0x048 .w8)).hostPc]? = some (.read 0x048 .w8) := by decide +kernel

/-- BnzBranchesOnItsMask: a value that meets the mask, and one that does not. -/
theorem witness_bnz : (hostAt (.bnz .status 1 0)).turns = .host :: [] ∧
    (hostAt (.bnz .status 1 0)).program[(hostAt (.bnz .status 1 0)).hostPc]? = some (.bnz .status 1 0) ∧
    (hostAt (.bnz .status 1 0)).hostRead (Reg.off .status) .w32 = (.okay, 0) ∧
    { hostAt (.bnz .status 1 0) with busy := true }.hostRead (Reg.off .status) .w32 = (.okay, 1) := by decide +kernel

/-- BadAccessesGetSlverr: where its two clauses meet. -/
theorem witness_offsets :
    [0x044, 0x048, 0x07C, 0x080, 0x0BC, 0x0C0, 0x0FC, 0x100, 0x17C, 0x180, 0x1FC, 0x001].map
      (fun off => (State.reset.hostWrite off .w32 0).2) =
      [.okay, .slverr, .slverr, .okay, .okay, .slverr, .slverr, .okay, .okay, .slverr, .slverr, .slverr] ∧
    [Width.w8, .w16, .w32, .w64, .burst].map (fun w => (State.reset.hostWrite 0 w 0).2) =
      [.slverr, .slverr, .okay, .slverr, .slverr] := by decide +kernel

/-- CmdWriteAcceptsEveryWord, WrittenRegisterReadsBack, WriteLeavesOtherRegistersAlone, ReadOnlyWritesAreIgnored,
PtabWordLayout, SplitRegisterLayout, SingleWordLayout: an idle engine, and registers of each kind. -/
theorem witness_idle : State.reset.busy = false ∧ Reg.access (.ptab 15) = .rw ∧ Reg.access .blkLen = .rw ∧
    Reg.access .fKHi = .rw ∧ Reg.access (.skHi 15) = .ro ∧ (Reg.skLo 0 ≠ .ptab 15) := by decide +kernel

/-- PlatformRoutesTheWindow: the window's last byte, and the first past it. -/
theorem witness_addresses : (0x1FF < 0x200 ∧ Config.desBase + 0x1FF = Config.desBase + 0x1FF) ∧
    Config.desBase + 0x200 ≤ Config.desBase + 0x200 := ⟨⟨by decide, rfl⟩, Nat.le_refl _⟩

/-- A host at `EXEC NOP`, the engine idle. -/
def hostAtExec : State := { State.reset with program := [wrStmt .cmd (encode .nop), waitStmt 1] }

/-- ExecWaitsForItsCommand. -/
theorem witness_exec_program : assemble ["EXEC NOP".toList] = some hostAtExec.program ∧ Instr.wf .nop = true ∧
    hostAtExec.busy = false ∧ hostAtExec.program[hostAtExec.hostPc]? = some (wrStmt .cmd (encode .nop)) ∧
    hostAtExec.program[hostAtExec.hostPc + 1]? = some (waitStmt (hostAtExec.hostPc + 1)) := by decide +kernel

/-- The one family of per-instruction laws is not vacuous. -/
theorem witness_encodedRow : Instr.wf (.perm 64) = true ∧ Laws.EncodedRow.rowIndex (.perm 64) = 8 := by decide

end Sys2Proof.Tests
end

section
/-! The rotation of a key half (00_scope.md R10): its two shifts have no bit in common, so their sum is the
library's circular left rotation. -/

namespace Sys2Proof.Machine

/-- The bits that stay in the half and the bits that re-enter at its low end meet nowhere. -/
theorem shiftLeft_and_ushiftRight_eq_zero {w : Nat} (x : BitVec w) (s : Nat) :
    x <<< s &&& x >>> (w - s) = 0#w := by
  apply BitVec.eq_of_getLsbD_eq
  intro i hi
  rcases Nat.lt_or_ge i s with h | h
  · simp [h]
  · have reentering_ends : x.getLsbD (w - s + i) = false := BitVec.getLsbD_of_ge _ _ (by omega)
    simp [reentering_ends]

theorem rotl28_eq_rotateLeft (x : KeyHalf) {s : Nat} (hs : s < 28) : rotl28 x s = x.rotateLeft s := by
  rw [rotl28, BitVec.add_eq_or_of_and_eq_zero _ _ (shiftLeft_and_ushiftRight_eq_zero x s),
    BitVec.rotateLeft_def, Nat.mod_eq_of_lt hs]

/-- DES bit `j` of the rotated half is bit `j + s`, which starts again at 1 after 28 (00_scope.md R10). -/
theorem desBit_rotl28 (x : KeyHalf) {s j : Nat} (hs : s < 28) (h1 : 1 ≤ j) (h28 : j ≤ 28) :
    desBit (rotl28 x s) j = desBit x (if j ≤ 28 - s then j + s else j + s - 28) := by
  have source_index : (s + (j - 1)) % 28 + 1 = if j ≤ 28 - s then j + s else j + s - 28 := by
    split <;> omega
  rw [rotl28_eq_rotateLeft x hs, desBit_eq_getMsbD _ h1 h28, BitVec.getMsbD_rotateLeft,
    getMsbD_eq_desBit x (Nat.mod_lt _ (by decide)), source_index]
  simp [show j - 1 < 28 by omega]

/-- The rotated half as a number: the sum of R10 does not overflow. -/
theorem toNat_rotl28 (x : KeyHalf) (s : Nat) :
    (rotl28 x s).toNat = x.toNat * 2 ^ s % 2 ^ 28 + x.toNat / 2 ^ (28 - s) := by
  rw [rotl28, BitVec.toNat_add_of_and_eq_zero (shiftLeft_and_ushiftRight_eq_zero x s),
    BitVec.toNat_shiftLeft, BitVec.toNat_ushiftRight, Nat.shiftLeft_eq, Nat.shiftRight_eq_div_pow]

/-- Settles O40: the bit law holds for every amount below 28 and the number law for every amount, so for 1 and 2. -/
theorem rotationIsCircular : Obligations.RotationIsCircular := by
  intro x s hs
  have hs28 : s < 28 := by omega
  exact ⟨fun j h1 h28 => desBit_rotl28 x hs28 h1 h28, toNat_rotl28 x s⟩

end Sys2Proof.Machine
end

section
/-! The state at reset and the words of STATUS and of the registers that one word holds (10_state.md R35, R38, R39,
R44, R52). -/

namespace Sys2Proof.Machine

/-- Settles O7: the registers by the definition of reset, the two vectors entry by entry, the STATUS word by its
evaluation. -/
theorem resetLeavesEveryRegisterZero : Obligations.ResetLeavesEveryRegisterZero := by
  have subkeys_zero (i : Fin 16) : State.reset.sk[i] = 0 := Vector.getElem_replicate i.isLt
  have entries_zero (k : Fin 64) : State.reset.ptab[k] = 0 := Vector.getElem_replicate k.isLt
  have status_zero : State.reset.readReg .status = 0 := by decide
  exact ⟨rfl, rfl, rfl, rfl, subkeys_zero, rfl, rfl, rfl, rfl, rfl, rfl, entries_zero, status_zero,
    rfl, rfl, rfl, rfl, rfl, rfl, rfl⟩

/-- A flag appended at the low end is bit 0, and the bits above it move up by one. -/
theorem getLsbD_append_ofBool {w : Nat} (x : BitVec w) (b : Bool) (k : Nat) :
    (x ++ BitVec.ofBool b).getLsbD k = if k = 0 then b else x.getLsbD (k - 1) := by
  rw [BitVec.getLsbD_append]
  rcases k with _ | k <;> simp

/-- STATUS above its five flags: ECODE in the four bits from 3 on, every other bit 0. -/
theorem getLsbD_status_upper (e : BitVec 4) (k : Nat) :
    (0#20 ++ e ++ 0#3).getLsbD k = if 3 ≤ k ∧ k < 7 then e.getLsbD (k - 3) else false := by
  rw [BitVec.getLsbD_append, BitVec.getLsbD_append]
  by_cases below : k < 3
  · simp [below, show ¬ 3 ≤ k by omega]
  · simp [below, show 3 ≤ k by omega, show k - 3 < 4 ↔ k < 7 by omega]

/-- Settles O52: the five flags one by one from bit 0, and ECODE from bit 8 (10_state.md R44). -/
theorem statusWordLayout : Obligations.StatusWordLayout := by
  intro s k _
  change BitVec.getLsbD (w := 20 + 4 + 3 + 1 + 1 + 1 + 1 + 1) s.statusWord k = _
  simp only [State.statusWord, getLsbD_append_ofBool, getLsbD_status_upper]
  rcases k with _ | _ | _ | _ | _ | k
  iterate 5 rfl
  simp [show k + 5 - 8 = k - 3 by omega, show 8 ≤ k + 5 ↔ 3 ≤ k by omega, show k + 5 < 12 ↔ k < 7 by omega]

/-- BLK_LEN is written with bits 3..0 of the word, if they are at most 8 (10_state.md R35). -/
theorem writeLen_eq (old : BitVec 4) (v : Word) :
    writeLen old v = if v.toNat % 16 ≤ 8 then BitVec.ofNat 4 v.toNat else old := by
  simp [writeLen]

/-- Settles O60: each offset is that of its register in the map, whose read and write the bus's laws give. -/
theorem singleWordLayout : Obligations.SingleWordLayout := by
  intro s v
  have len_word : s.readReg .blkLen = BitVec.ofNat 32 s.blkLen.toNat := (BitVec.ofNat_toNat ..).symm
  have bitres_word : s.readReg .bitres = if s.bitres then 1 else 0 := by
    cases h : s.bitres <;> simp [State.readReg, h]
  refine ⟨len_word ▸ hostRead_off s .blkLen, bitres_word ▸ hostRead_off s .bitres, hostRead_off s .fR,
    hostRead_off s .fOut, fun idle => ⟨?_, ?_, ?_, ?_⟩⟩
  · rw [← writeLen_eq]
    exact hostWrite_off s .blkLen v idle (by decide)
  · exact hostWrite_off s .bitres v idle (by decide)
  · exact hostWrite_off s .fR v idle (by decide)
  · exact hostWrite_off s .fOut v idle (by decide)

end Sys2Proof.Machine
end

section
/-! What a command, a host's turn and a step write: the frame of a command, and who can change the schedule
(10_state.md R33 to R37, R41). -/

namespace Sys2Proof.Machine

/-- Settles O18: a command updates result registers and completes, or reports an error; neither touches a register
of the host. -/
theorem noCommandWritesTheHostsRegisters : Obligations.NoCommandWritesTheHostsRegisters := by
  intro i s t executed
  rcases exec_cases i s with ⟨_, _, _, _, _, _, _, _, completes, -⟩ | ⟨_, reports, -⟩
  · cases completes.symm.trans executed
    simp
  · cases reports.symm.trans executed
    simp

/-- A command keeps the schedule and KSV, or it is KEYSCHED and sets KSV (10_state.md R36, R37). -/
theorem exec_schedule {i : Instr} {s t : State} (executed : exec i s = .next t) :
    (t.sk = s.sk ∧ t.ksv = s.ksv) ∨ (i = .keysched ∧ t.ksv = true) := by
  rcases exec_cases i s with ⟨_, _, _, _, _, _, _, _, completes, schedule⟩ | ⟨_, reports, -⟩
  · cases completes.symm.trans executed
    exact schedule
  · cases reports.symm.trans executed
    exact .inl ⟨rfl, rfl⟩

/-- A step on a pending word reports an illegal word, or executes what the word decodes to (45_control.md R241). -/
theorem runWord_cases (s : State) (c : Word) :
    (decode c = none ∧ s.runWord c = .next (s.takePending.complete (some .illegalCmd))) ∨
    (∃ i, decode c = some i ∧ s.runWord c = exec i s.takePending) := by
  unfold State.runWord
  cases h : decode c with
  | none => exact .inl ⟨rfl, rfl⟩
  | some i => exact .inr ⟨i, rfl, rfl⟩

/-- A pending word's step keeps the schedule and KSV, or the word is KEYSCHED's and KSV is set. -/
theorem runWord_schedule {s t : State} {c : Word} (ran : s.runWord c = .next t) :
    (t.sk = s.sk ∧ t.ksv = s.ksv) ∨ (decode c = some .keysched ∧ t.ksv = true) := by
  rcases runWord_cases s c with ⟨-, illegal⟩ | ⟨i, decoded, executes⟩
  · cases illegal.symm.trans ran
    exact .inl ⟨rfl, rfl⟩
  · rcases exec_schedule (executes.symm.trans ran) with kept | ⟨rfl, set⟩
    · exact .inl kept
    · exact .inr ⟨decoded, set⟩

/-- No host write reaches the schedule or KSV (10_state.md R36). -/
theorem hostWrite_schedule (s : State) (off : Nat) (w : Width) (v : Word) :
    (s.hostWrite off w v).1.sk = s.sk ∧ (s.hostWrite off w v).1.ksv = s.ksv := by
  rcases hostWrite_cases s off w v with ⟨-, h⟩ | ⟨-, h⟩ | ⟨_, -, -, -, h⟩ | ⟨r, -, -, -, h⟩
  · simp [h]
  · simp [h, writeStatus_eq]
  · simp [h]
  · obtain ⟨sk_kept, -, -, ksv_kept, -⟩ := writeReg_frame s r v
    rw [h]
    exact ⟨sk_kept, ksv_kept⟩

/-- A host's turn is its write of a register of the window, or it moves the host's own fields at most. -/
theorem hostTurn_write_or_advance (s : State) :
    (∃ off w v pc r, s.hostTurn = (s.hostWrite off w v).1.advanceHost pc r) ∨
    (∃ pc r, s.hostTurn = s.advanceHost pc r) := by
  rcases hostTurn_cases s with ⟨-, h⟩ | ⟨off, w, v, -, h⟩ | ⟨_, pc, r, -, -, h⟩
  · exact .inr ⟨s.hostPc, s.response, h⟩
  · rw [busWrite_state] at h
    split at h
    · exact .inl ⟨off, w, v, _, _, h⟩
    · exact .inr ⟨_, _, h⟩
  · exact .inr ⟨pc, r, h⟩

/-- A host's turn keeps the schedule and KSV, whatever its statement. -/
theorem hostTurn_schedule (s : State) : s.hostTurn.sk = s.sk ∧ s.hostTurn.ksv = s.ksv := by
  rcases hostTurn_write_or_advance s with ⟨off, w, v, _, _, h⟩ | ⟨_, _, h⟩
  · rw [h]
    exact hostWrite_schedule s off w v
  · simp [h]

/-- Settles O15: of the four kinds of step, the host's turn and an idle engine keep the schedule, and a pending word
that changes it is KEYSCHED's. -/
theorem scheduleChangesOnlyByKeyschedOrReset : Obligations.ScheduleChangesOnlyByKeyschedOrReset := by
  intro s t stepped changed
  have not_kept : ¬ (t.sk = s.sk ∧ t.ksv = s.ksv) := by tauto
  rcases step_cases s with ⟨ts, host, -⟩ | ⟨ts, idle, -, -⟩ | ⟨ts, c, ran, pending, turn⟩ | ⟨ts, -, turn⟩
  · cases host.symm.trans stepped
    exact absurd (hostTurn_schedule (s.withTurns ts)) not_kept
  · cases idle.symm.trans stepped
    exact absurd ⟨rfl, rfl⟩ not_kept
  · obtain ⟨decoded, set⟩ := (runWord_schedule (ran.symm.trans stepped)).resolve_left not_kept
    have engine_moved : s.turns.head? = some .engine ∨ s.turns = [] :=
      turn.imp (fun h => by rw [h]; rfl) And.left
    exact .inr ⟨engine_moved, set, c, pending, decoded⟩
  · exact .inl (by rw [turn]; rfl)

end Sys2Proof.Machine
end

section
/-! The invariant: BUSY exactly with a pending command, a legal STATUS, BLK_LEN in 0..8 (10_state.md R35, R45, R49).
Acceptance and completion establish it from the length alone, every other write keeps it. -/

namespace Sys2Proof.Machine

theorem accept_inv {s : State} (c : Word) (len : s.blkLen.toNat ≤ 8) : (s.accept c).Inv := by
  simp [State.Inv, State.StatusLegal, len]

/-- The codes of 60_exceptions.md R261 are 1..4. -/
theorem code_range (e : ErrorCode) : 1 ≤ e.code.toNat ∧ e.code.toNat ≤ 4 := by
  cases e <;> decide

theorem complete_inv {s : State} (e : Option ErrorCode) (taken : s.pending = none) (len : s.blkLen.toNat ≤ 8) :
    (s.complete e).Inv := by
  cases e with
  | none => simp [State.Inv, State.StatusLegal, taken, len]
  | some e => simp [State.Inv, State.StatusLegal, taken, len, code_range e]

/-- Every command ends in a completion, with PENDING and BLK_LEN as it found them (45_control.md R242). -/
theorem exec_completes {i : Instr} {s t : State} (executed : exec i s = .next t) :
    ∃ (u : State) (e : Option ErrorCode), t = u.complete e ∧ u.pending = s.pending ∧ u.blkLen = s.blkLen := by
  rcases exec_cases i s with ⟨_, _, _, _, _, _, _, _, completes, -⟩ | ⟨e, reports, -⟩
  · cases completes.symm.trans executed
    exact ⟨_, _, rfl, rfl, rfl⟩
  · cases reports.symm.trans executed
    exact ⟨s, some e, rfl, rfl, rfl⟩

/-- A pending word's step takes PENDING and completes, whatever the word is. -/
theorem runWord_inv {s t : State} {c : Word} (len : s.blkLen.toNat ≤ 8) (ran : s.runWord c = .next t) :
    t.Inv := by
  rcases runWord_cases s c with ⟨-, illegal⟩ | ⟨i, -, executes⟩
  · cases illegal.symm.trans ran
    exact complete_inv _ rfl len
  · obtain ⟨u, e, rfl, taken, len_kept⟩ := exec_completes (executes.symm.trans ran)
    exact complete_inv e taken (len_kept ▸ len)

/-- A value above 8 is not taken for BLK_LEN (10_state.md R35). -/
theorem writeLen_le {old : BitVec 4} (v : Word) (h : old.toNat ≤ 8) : (writeLen old v).toNat ≤ 8 := by
  unfold writeLen
  split <;> assumption

theorem writeReg_blkLen_le {s : State} (r : Reg) (v : Word) (len : s.blkLen.toNat ≤ 8) :
    (s.writeReg r v).blkLen.toNat ≤ 8 := by
  cases r with
  | blkLen => exact writeLen_le v len
  | _ => exact len

/-- A register's write accepts a command, or it leaves STATUS and PENDING alone. -/
theorem writeReg_inv {s : State} (r : Reg) (v : Word) (inv : s.Inv) : (s.writeReg r v).Inv := by
  obtain ⟨busy_iff, legal, len⟩ := inv
  by_cases cmd : r = .cmd
  · subst cmd
    exact accept_inv v len
  · obtain ⟨busy_kept, done_kept, err_kept, ecode_kept, pending_kept⟩ := writeReg_status s r v cmd
    refine ⟨?_, ?_, writeReg_blkLen_le r v len⟩
    · rw [busy_kept, pending_kept]
      exact busy_iff
    · rw [State.StatusLegal, busy_kept, done_kept, err_kept, ecode_kept]
      exact legal

/-- A host write, be it refused, dropped or taken (20_memory.md R82). -/
theorem hostWrite_inv {s : State} (off : Nat) (w : Width) (v : Word) (inv : s.Inv) :
    (s.hostWrite off w v).1.Inv := by
  rcases hostWrite_cases s off w v with ⟨-, h⟩ | ⟨-, h⟩ | ⟨_, -, -, -, h⟩ | ⟨r, -, -, -, h⟩
  · rw [h]
    exact inv
  · rw [h, writeStatus_eq]
    exact inv
  · rw [h]
    exact inv
  · rw [h]
    exact writeReg_inv r v inv

theorem hostTurn_inv {s : State} (inv : s.Inv) : s.hostTurn.Inv := by
  rcases hostTurn_write_or_advance s with ⟨off, w, v, _, _, h⟩ | ⟨_, _, h⟩
  · rw [h]
    exact hostWrite_inv off w v inv
  · rw [h]
    exact inv

/-- Settles O12: nothing is pending, no error is reported and LEN is 0. -/
theorem resetMeetsTheInvariant : Obligations.ResetMeetsTheInvariant := by
  unfold Obligations.ResetMeetsTheInvariant
  decide

/-- Settles O11: by the four kinds of step. The order of events is not in the invariant, and a reset puts every field
of it back. -/
theorem everyStepKeepsTheInvariant : Obligations.EveryStepKeepsTheInvariant := by
  intro s t inv stepped
  rcases step_cases s with ⟨ts, host, -⟩ | ⟨ts, idle, -, -⟩ | ⟨ts, c, ran, -, -⟩ | ⟨ts, reset, -⟩
  · cases host.symm.trans stepped
    exact hostTurn_inv (s := s.withTurns ts) inv
  · cases idle.symm.trans stepped
    exact inv
  · obtain ⟨-, -, len⟩ := inv
    exact runWord_inv (s := s.withTurns ts) len (ran.symm.trans stepped)
  · cases reset.symm.trans stepped
    exact resetMeetsTheInvariant

end Sys2Proof.Machine
end

section
/-! The halves of the split registers, and the words cut from a longer value (20_memory.md R75, R78): what each half
reads as after a write of either. -/

namespace Sys2Proof.Machine

@[simp] theorem hi64_setHi64 (x : Block) (v : Word) : hi64 (setHi64 x v) = v := extract_hi_append v (lo64 x)
@[simp] theorem lo64_setHi64 (x : Block) (v : Word) : lo64 (setHi64 x v) = lo64 x := extract_lo_append v (lo64 x)
@[simp] theorem hi64_setLo64 (x : Block) (v : Word) : hi64 (setLo64 x v) = hi64 x := extract_hi_append (hi64 x) v
@[simp] theorem lo64_setLo64 (x : Block) (v : Word) : lo64 (setLo64 x v) = v := extract_lo_append (hi64 x) v

/-- The low `n` bits of a word, the others 0, are the word under the mask of `n` ones. -/
theorem setWidth_setWidth_eq_and_mask (v : Word) {n : Nat} (hn : n ≤ 32) :
    (v.setWidth n).setWidth 32 = v &&& BitVec.ofNat 32 (2 ^ n - 1) := by
  have mask_fits : 2 ^ n - 1 < 2 ^ 32 := by
    have := Nat.pow_le_pow_right (n := 2) (by decide) hn
    omega
  have low_fits : v.toNat % 2 ^ n < 2 ^ 32 := (Nat.mod_le _ _).trans_lt v.isLt
  apply BitVec.eq_of_toNat_eq
  rw [BitVec.toNat_setWidth, BitVec.toNat_setWidth, BitVec.toNat_and, BitVec.toNat_ofNat,
    Nat.mod_eq_of_lt mask_fits, Nat.mod_eq_of_lt low_fits, Nat.and_two_pow_sub_one_eq_mod]

@[simp] theorem hi48_setHi48 (y : Subkey) (v : Word) : hi48 (setHi48 y v) = v &&& 0x0000FFFF := by
  rw [hi48, setHi48, extract_hi_append]
  exact setWidth_setWidth_eq_and_mask v (by decide)

@[simp] theorem lo48_setHi48 (y : Subkey) (v : Word) : lo48 (setHi48 y v) = lo48 y :=
  extract_lo_append (v.setWidth 16) (lo48 y)

@[simp] theorem hi48_setLo48 (y : Subkey) (v : Word) : hi48 (setLo48 y v) = hi48 y := by
  rw [hi48, setLo48, extract_hi_append, hi48]

@[simp] theorem lo48_setLo48 (y : Subkey) (v : Word) : lo48 (setLo48 y v) = v :=
  extract_lo_append (y.extractLsb' 32 16) v

/-- The upper half of a 48-bit register, as the bits R75 puts together. -/
theorem hi48_eq_append (y : Subkey) : hi48 y = 0#16 ++ y.extractLsb' 32 16 :=
  BitVec.setWidth_eq_append (by decide)

theorem setHi48_eq_append (y : Subkey) (v : Word) : setHi48 y v = v.extractLsb' 0 16 ++ y.extractLsb' 0 32 := by
  rw [setHi48, lo48, BitVec.setWidth_eq_extractLsb' (by decide)]

end Sys2Proof.Machine
end

section
/-! The words of PTAB (20_memory.md R76): the entries a write sets, and what a word reads as after it. -/

namespace Sys2Proof.Machine

/-- A write of PTABw sets entry `k`, counted from 0, exactly if it is one of the word's four. -/
theorem getElem_writePtab (t : Vector Byte 64) (w : Fin 16) (v : Word) (k : Fin 64) :
    (writePtab t w v)[k] = if k.val / 4 = w.val then v.extractLsb' (24 - 8 * (k.val % 4)) 8 else t[k] := by
  obtain ⟨k, hk⟩ := k
  simp only [writePtab, Fin.getElem_fin, Vector.getElem_set]
  by_cases own : k / 4 = w.val
  · obtain ⟨j, hj, rfl⟩ : ∃ j < 4, k = 4 * w.val + j := ⟨k % 4, by omega, by omega⟩
    rw [if_pos own, Nat.mul_add_mod]
    interval_cases j <;> simp
  · rw [if_neg own, if_neg (by omega), if_neg (by omega), if_neg (by omega), if_neg (by omega)]

/-- Two words with the same four bytes are equal. -/
theorem word_eq_of_bytes {x y : Word}
    (h : ∀ j : Fin 4, x.extractLsb' (24 - 8 * j.val) 8 = y.extractLsb' (24 - 8 * j.val) 8) : x = y := by
  apply BitVec.eq_of_getLsbD_eq
  intro i hi
  have byte := congrArg (·.getLsbD (i % 8)) (h ⟨3 - i / 8, by omega⟩)
  have place : 24 - 8 * (3 - i / 8) + i % 8 = i := by omega
  simpa [place, Nat.mod_lt] using byte

theorem readPtab_writePtab (t : Vector Byte 64) (w q : Fin 16) (v : Word) :
    readPtab (writePtab t w v) q = if q = w then v else readPtab t q := by
  apply word_eq_of_bytes
  intro j
  have entry := getElem_writePtab t w v ⟨4 * q.val + j.val, by omega⟩
  have word : (4 * q.val + j.val) / 4 = q.val := by omega
  have place : (4 * q.val + j.val) % 4 = j.val := by omega
  simp only [Fin.getElem_fin, word, place, Fin.val_inj] at entry
  rw [readPtab_byte, entry]
  split
  · rfl
  · rw [readPtab_byte]

/-- Settles O53: the bus reaches PTABw at the offset, and the word's laws give its bytes. -/
theorem ptabWordLayout : Obligations.PtabWordLayout := by
  intro s w v idle
  have written : s.hostWrite (0x080 + 4 * w.val) .w32 v = (s.writeReg (.ptab w) v, .okay) :=
    hostWrite_off s (.ptab w) v idle nofun
  have read : s.hostRead (0x080 + 4 * w.val) .w32 = (.okay, readPtab s.ptab w) := hostRead_off s (.ptab w)
  rw [written, read]
  exact ⟨getElem_writePtab s.ptab w v, readPtab_byte s.ptab w⟩

end Sys2Proof.Machine
end

section
/-! The register map (20_memory.md R70 to R74): which offsets reach a register, which get SLVERR, and which addresses
of the platform are offsets of the window. -/

namespace Sys2Proof.Machine

/-- A row of the map below 0x048 stands at four times its place. -/
theorem off_of_lowRegs {n : Nat} {r : Reg} (h : lowRegs[n]? = some r) : r.off = 4 * n := by
  have by_place : ∀ i : Fin lowRegs.length, lowRegs[i].off = 4 * i.val := by decide
  obtain ⟨hn, rfl⟩ := List.getElem?_eq_some_iff.mp h
  exact by_place ⟨n, hn⟩

theorem off_of_regAt {off : Nat} {r : Reg} (h : regAt off = some r) : r.off = off := by
  unfold regAt at h
  split_ifs at h
  · rw [off_of_lowRegs h]
    omega
  all_goals
    cases h
    simp only [Reg.off, Fin.ofNat]
    omega

/-- The misaligned and the reserved offsets are those no register has. -/
theorem regAt_eq_none_iff (off : Nat) : regAt off = none ↔
    off % 4 ≠ 0 ∨ (0x048 ≤ off ∧ off < 0x080) ∨ (0x0C0 ≤ off ∧ off < 0x100) ∨ 0x180 ≤ off := by
  have low_rows : lowRegs.length = 18 := rfl
  unfold regAt
  split_ifs with misaligned
  · simp [misaligned]
  · rw [List.getElem?_eq_none_iff, low_rows]
    omega
  all_goals
    simp only [true_iff, false_iff]
    omega

/-- Settles O51: the map and the offset column are inverse to each other, so each row of R74 is read off its
register. -/
theorem registerMapIsOneToOne : Obligations.RegisterMapIsOneToOne := by
  refine ⟨fun off r => ⟨off_of_regAt, ?_⟩, off_lt_window, by decide, fun w => ⟨regAt_off (.ptab w), rfl⟩,
    fun i => ⟨regAt_off (.skHi i), rfl, regAt_off (.skLo i), rfl⟩⟩
  rintro rfl
  exact regAt_off r

theorem target_eq_none_iff (off : Nat) (w : Width) : target off w = none ↔ w ≠ .w32 ∨ regAt off = none := by
  unfold target
  split_ifs with h <;> simp [h]

theorem hostRead_of_target (s : State) {off : Nat} {w : Width} {r : Reg} (h : target off w = some r) :
    s.hostRead off w = (.okay, s.readReg r) := by
  simp only [State.hostRead, h]

/-- An access that reaches no register is refused: it writes nothing and reads 0. -/
theorem access_refused (s : State) {off : Nat} {w : Width} (v : Word) (h : target off w = none) :
    s.hostWrite off w v = (s, .slverr) ∧ s.hostRead off w = (.slverr, 0) := by
  simp only [State.hostWrite, State.hostRead, h, and_self]

/-- An access that reaches a register gets OKAY, busy or not: a dropped write too. -/
theorem access_okay (s : State) {off : Nat} {w : Width} (v : Word) (h : target off w ≠ none) :
    (s.hostWrite off w v).2 = .okay ∧ (s.hostRead off w).1 = .okay := by
  obtain ⟨r, reached⟩ := Option.ne_none_iff_exists'.mp h
  rw [hostRead_of_target s reached]
  rcases hostWrite_cases s off w v with ⟨refused, -⟩ | ⟨-, e⟩ | ⟨_, -, -, -, e⟩ | ⟨_, -, -, -, e⟩
  · exact absurd refused h
  all_goals exact ⟨by rw [e], rfl⟩

/-- Settles O44: the offsets and widths of the first clause are those that reach no register. -/
theorem badAccessesGetSlverr : Obligations.BadAccessesGetSlverr := by
  intro s off w v _
  constructor
  · intro bad
    have refused : target off w = none := (target_eq_none_iff off w).mpr (bad.imp_right (regAt_eq_none_iff off).mpr)
    exact access_refused s v refused
  · intro width aligned _ _ _
    have reached : target off w ≠ none := by
      rw [Ne, target_eq_none_iff, regAt_eq_none_iff]
      simp only [width, ne_eq, not_true_eq_false, false_or]
      omega
    exact access_okay s v reached

theorem route_desBase_add {off : Nat} (h : off < Config.windowBytes) : route (Config.desBase + off) = some off := by
  rw [route, if_pos (by omega), Nat.add_sub_cancel_left]

theorem route_eq_none {addr : Nat} (h : addr < Config.desBase ∨ Config.desBase + Config.windowBytes ≤ addr) :
    route addr = none :=
  if_neg (by omega)

/-- Settles O54: an address of the window is routed to its offset, and one outside is not routed. -/
theorem platformRoutesTheWindow : Obligations.PlatformRoutesTheWindow := by
  intro s addr w v
  constructor
  · rintro off inside rfl
    have window : off < Config.windowBytes := inside
    simp only [State.memWrite, State.memRead, route_desBase_add window, State.busWrite, State.busRead, if_pos window,
      and_self]
  · intro outside
    simp only [State.memWrite, State.memRead, route_eq_none outside, and_self]

end Sys2Proof.Machine
end

section
/-! Writes and reads of the registers through the bus (20_memory.md R75 to R82). -/

namespace Sys2Proof.Machine

/-- A read/write register reads back what was written, but for the reserved half of F_K_HI and for BLK_LEN, which
takes no length above 8. -/
theorem readReg_writeReg_same (s : State) {r : Reg} (v : Word) (rw_reg : r.access = .rw) :
    (s.writeReg r v).readReg r =
      if r = .fKHi then v &&& 0x0000FFFF
      else if r = .blkLen then (if v.toNat % 16 ≤ 8 then v &&& 0x0000000F else s.readReg .blkLen)
      else v := by
  cases r with
  | cmd | status | bitres | fOut | skHi | skLo => cases rw_reg
  | keyHi | ktextHi | blkHi | pinHi | poutHi => exact hi64_setHi64 ..
  | keyLo | ktextLo | blkLo | pinLo | poutLo => exact lo64_setLo64 ..
  | fKHi => exact hi48_setHi48 ..
  | fKLo => exact lo48_setLo48 ..
  | fR => rfl
  | ptab w => exact (readPtab_writePtab ..).trans (if_pos rfl)
  | blkLen =>
    change (writeLen s.blkLen v).setWidth 32 = if v.toNat % 16 ≤ 8 then v &&& 0x0000000F else s.readReg .blkLen
    rw [writeLen_eq]
    split
    · exact setWidth_setWidth_eq_and_mask v (n := 4) (by decide)
    · rfl

/-- A write changes the reading of its own register at most: another register has its own field, or it is the other
half of the same one, or another word of PTAB. -/
theorem readReg_writeReg_ne (s : State) {r q : Reg} (v : Word) (rw_reg : r.access = .rw) (ne : q ≠ r) :
    (s.writeReg r v).readReg q = s.readReg q := by
  cases r with
  | cmd | status | bitres | fOut | skHi | skLo => cases rw_reg
  | ptab w => cases q with
    | ptab u => exact (readPtab_writePtab ..).trans (if_neg fun same => ne (congrArg Reg.ptab same))
    | _ => rfl
  | _ => cases q <;> simp [State.readReg, State.writeReg, State.statusWord] at ne ⊢

theorem ne_status_of_rw {r : Reg} (rw_reg : r.access = .rw) : r ≠ .status := by
  rintro rfl
  cases rw_reg

/-- Settles O48: the bus's write and read at the offset are those of the register. -/
theorem writtenRegisterReadsBack : Obligations.WrittenRegisterReadsBack := by
  intro s r v idle rw_reg
  rw [hostWrite_off s r v idle (ne_status_of_rw rw_reg), hostRead_off, readReg_writeReg_same s v rw_reg]

/-- Settles O49: the same, for the reading of another register. -/
theorem writeLeavesOtherRegistersAlone : Obligations.WriteLeavesOtherRegistersAlone := by
  intro s r q v idle rw_reg ne
  rw [hostWrite_off s r v idle (ne_status_of_rw rw_reg), hostRead_off, hostRead_off,
    readReg_writeReg_ne s v rw_reg ne]

theorem writeReg_readOnly (s : State) {r : Reg} (v : Word) (ro : r.access = .ro) : s.writeReg r v = s := by
  cases r with
  | bitres | fOut | skHi | skLo => rfl
  | _ => cases ro

/-- A write of a read-only register, the engine idle (20_memory.md R79). -/
theorem hostWrite_off_readOnly (s : State) {r : Reg} (v : Word) (idle : s.busy = false) (ro : r.access = .ro) :
    s.hostWrite r.off .w32 v = (s, .okay) := by
  have not_status : r ≠ .status := by
    rintro rfl
    cases ro
  rw [hostWrite_off s r v idle not_status, writeReg_readOnly s v ro]

/-- Settles O50: the registers named are read-only in the map. -/
theorem readOnlyWritesAreIgnored : Obligations.ReadOnlyWritesAreIgnored := by
  intro s r v idle named
  apply hostWrite_off_readOnly s v idle
  rcases named with rfl | rfl | ⟨i, rfl | rfl⟩ <;> rfl

/-- Settles O45: a busy engine drops the write of every register but STATUS, so OVR is all that changes. -/
theorem busyWritesAreDropped : Obligations.BusyWritesAreDropped := by
  intro s r v busy not_status
  simp [State.hostWrite, target_off, busy, not_status, State.overrun]

theorem hostWrite_off_status (s : State) (v : Word) :
    s.hostWrite (Reg.off .status) .w32 v = (s.writeStatus v, .okay) := by
  simp [State.hostWrite, target_off]

/-- Settles O46: the write reaches STATUS, busy or not, and OVR is kept exactly if bit 4 is 0. -/
theorem statusWriteOnlyClearsOverrun : Obligations.StatusWriteOnlyClearsOverrun := by
  intro s v
  refine (hostWrite_off_status s v).trans ?_
  rw [writeStatus_eq]
  cases v.getLsbD 4 <;> simp

/-- Settles O59: each offset is that of its register in the map, whose read and write the bus's laws give. -/
theorem splitRegisterLayout : Obligations.SplitRegisterLayout := by
  intro s v
  have read (r : Reg) := hostRead_off s r
  refine ⟨?_, hi48_eq_append s.fK ▸ read .fKHi, read .fKLo, fun i => ⟨hi48_eq_append s.sk[i] ▸ read (.skHi i),
    read (.skLo i), fun idle => ⟨hostWrite_off_readOnly s v idle (r := .skHi i) rfl,
      hostWrite_off_readOnly s v idle (r := .skLo i) rfl⟩⟩, fun idle => ?_⟩
  · simp only [List.forall_mem_cons, List.not_mem_nil, false_implies, implies_true, and_true]
    exact ⟨⟨read .keyHi, read .keyLo⟩, ⟨read .ktextHi, read .ktextLo⟩, ⟨read .blkHi, read .blkLo⟩,
      ⟨read .pinHi, read .pinLo⟩, ⟨read .poutHi, read .poutLo⟩⟩
  · have write (r : Reg) (not_status : r ≠ .status) := hostWrite_off s r v idle not_status
    exact ⟨write .keyHi nofun, write .keyLo nofun, write .ktextHi nofun, write .ktextLo nofun, write .blkHi nofun,
      write .blkLo nofun, setHi48_eq_append s.fK v ▸ write .fKHi nofun, write .fKLo nofun, write .pinHi nofun,
      write .pinLo nofun, write .poutHi nofun, write .poutLo nofun⟩

/-- The step of a host's turn given by the order of events (log entry 1). -/
theorem step_host {s : State} {ts : List Turn} (turn : s.turns = .host :: ts) :
    step s = .next (s.withTurns ts).hostTurn := by
  simp only [step, turn]

theorem hostTurn_of_stmt {s : State} {st : HostStmt} (next : s.program[s.hostPc]? = some st) :
    s.hostTurn = s.hostStmt st := by
  simp only [State.hostTurn, next]

/-- Settles O43: a read statement moves the host's own fields, and the bus's answer does not depend on the turns to
come. -/
theorem readsChangeNoRegister : Obligations.ReadsChangeNoRegister := by
  intro s ts off w turn next
  rw [step_host turn, hostTurn_of_stmt (s := s.withTurns ts) next]
  rfl

end Sys2Proof.Machine
end

section
/-! The words of the instructions with operands as the sums of 30_encoding.md R109. -/

namespace Sys2Proof

/-- A field put in above a number that ends below it is a term of the word's sum. -/
theorem ofNat_or_shiftLeft {m k : Nat} (n : Nat) (below : m < 2 ^ k) :
    BitVec.ofNat 32 m ||| BitVec.ofNat 32 n <<< k = BitVec.ofNat 32 (m + n * 2 ^ k) := by
  have shifted : BitVec.ofNat 32 n <<< k = BitVec.ofNat 32 (n <<< k) := by
    apply BitVec.eq_of_toNat_eq
    simp [Nat.shiftLeft_eq, Nat.mod_mul_mod]
  rw [shifted, ← BitVec.ofNat_or, Nat.or_comm, ← Nat.shiftLeft_add_eq_or_of_lt below, Nat.shiftLeft_eq,
    Nat.add_comm]

theorem Plane.code_lt (p : Plane) : p.code < 2 := by
  cases p <;> decide

theorem Plane.code_injective : Function.Injective Plane.code := by
  intro p q h
  match p, q, h with
  | .pin, .pin, _ => rfl
  | .pout, .pout, _ => rfl

theorem encode_getbit (p : Plane) {n : Nat} (h : n < 128) :
    encode (.getbit p n) = BitVec.ofNat 32 (0x06 + n * 2 ^ 8 + p.code * 2 ^ 16) := by
  rw [encode, ofNat_or_shiftLeft n (by decide), ofNat_or_shiftLeft p.code (by omega)]

theorem encode_putbit (p : Plane) {n : Nat} (v : Bool) (h : n < 128) :
    encode (.putbit p n v) = BitVec.ofNat 32 (0x07 + n * 2 ^ 8 + p.code * 2 ^ 16 + v.toNat * 2 ^ 17) := by
  have plane := p.code_lt
  rw [encode, ofNat_or_shiftLeft n (by decide), ofNat_or_shiftLeft p.code (by omega),
    ofNat_or_shiftLeft v.toNat (by omega)]

theorem encode_perm (n : Nat) : encode (.perm n) = BitVec.ofNat 32 (0x08 + n * 2 ^ 8) := by
  rw [encode, ofNat_or_shiftLeft n (by decide)]

end Sys2Proof
end

section
/-! The fields of a command word (30_encoding.md R101 to R103): each as a number, and a row's mask as a union of
fields. -/

namespace Sys2Proof

theorem field_eq_div_mod (c : Word) (hi lo : Nat) : field c hi lo = c.toNat / 2 ^ lo % 2 ^ (hi + 1 - lo) := by
  rw [field, BitVec.extractLsb'_toNat, Nat.shiftRight_eq_div_pow]

theorem toNat_getLsbD (c : Word) (k : Nat) : (c.getLsbD k).toNat = c.toNat / 2 ^ k % 2 := by
  rw [← BitVec.testBit_toNat, Nat.toNat_testBit]

theorem code_planeField (c : Word) : (planeField c).code = c.toNat / 2 ^ 16 % 2 := by
  rw [← toNat_getLsbD, planeField]
  cases c.getLsbD 16 <;> rfl

theorem toNat_vField (c : Word) : (vField c).toNat = c.toNat / 2 ^ 17 % 2 := toNat_getLsbD c 17

theorem idxField_lt (c : Word) : idxField c < 128 := by
  rw [idxField, field_eq_div_mod]
  exact Nat.mod_lt _ (by decide)

/-- The mask of one field: ones from bit `hi` down to bit `lo`. -/
def fieldMask (hi lo : Nat) : Word := (BitVec.allOnes (hi + 1 - lo)).setWidth 32 <<< lo

/-- The mask of several fields. -/
def fieldsMask (fs : List (Nat × Nat)) : Word := fs.foldr (fun f m => fieldMask f.1 f.2 ||| m) 0

theorem getLsbD_fieldMask (hi lo : Nat) {k : Nat} (hk : k < 32) :
    (fieldMask hi lo).getLsbD k = decide (lo ≤ k ∧ k ≤ hi) := by
  rw [fieldMask, BitVec.getLsbD_shiftLeft, BitVec.getLsbD_setWidth, BitVec.getLsbD_allOnes]
  by_cases below : k < lo
  · simp [below]
  · have up_to_hi : k - lo < hi + 1 - lo ↔ k ≤ hi := by omega
    simp [below, hk, up_to_hi, show k - lo < 32 by omega, show lo ≤ k by omega]

/-- Two words agree under a mask exactly if they have the same bits where the mask has a one. -/
theorem and_eq_and_iff (c v m : Word) :
    c &&& m = v &&& m ↔ ∀ k < 32, m.getLsbD k = true → c.getLsbD k = v.getLsbD k := by
  constructor
  · intro h k _ one
    have bit := congrArg (·.getLsbD k) h
    simpa [one] using bit
  · intro h
    apply BitVec.eq_of_getLsbD_eq
    intro k hk
    rw [BitVec.getLsbD_and, BitVec.getLsbD_and]
    cases one : m.getLsbD k with
    | false => rw [Bool.and_false, Bool.and_false]
    | true => rw [h k hk one]

/-- Two words agree under the mask of a field exactly if the field has one value in both. -/
theorem and_fieldMask_eq_iff (c v : Word) (hi lo : Nat) :
    c &&& fieldMask hi lo = v &&& fieldMask hi lo ↔ field c hi lo = field v hi lo := by
  rw [and_eq_and_iff, field, field, BitVec.toNat_inj]
  constructor
  · intro h
    apply BitVec.eq_of_getLsbD_eq
    intro i hi
    rw [BitVec.getLsbD_extractLsb', BitVec.getLsbD_extractLsb']
    rcases Nat.lt_or_ge (lo + i) 32 with inside | outside
    · rw [h (lo + i) inside (by rw [getLsbD_fieldMask _ _ inside]; simp; omega)]
    · rw [BitVec.getLsbD_of_ge c _ outside, BitVec.getLsbD_of_ge v _ outside]
  · intro h k hk one
    rw [getLsbD_fieldMask _ _ hk] at one
    have place := of_decide_eq_true one
    have bit := congrArg (·.getLsbD (k - lo)) h
    simpa [show k - lo < hi + 1 - lo by omega, show lo + (k - lo) = k by omega] using bit

/-- Two words agree under the union of two masks exactly if they agree under both. -/
theorem and_or_eq_iff (c v m n : Word) :
    c &&& (m ||| n) = v &&& (m ||| n) ↔ c &&& m = v &&& m ∧ c &&& n = v &&& n := by
  simp only [and_eq_and_iff, BitVec.getLsbD_or, Bool.or_eq_true, or_imp, forall_and]

theorem and_fieldsMask_eq_iff (c v : Word) (fs : List (Nat × Nat)) :
    c &&& fieldsMask fs = v &&& fieldsMask fs ↔ ∀ f ∈ fs, field c f.1 f.2 = field v f.1 f.2 := by
  induction fs with
  | nil => simp [fieldsMask]
  | cons f fs ih =>
    rw [List.forall_mem_cons, ← ih, ← and_fieldMask_eq_iff]
    exact and_or_eq_iff ..

end Sys2Proof
end

section
/-! The opcode map read through its fields (30_encoding.md R105 to R107): its rows are disjoint, so a word decodes to
what the row that it matches builds. -/

namespace Sys2Proof

/-- Each row of the map, as the fields that its mask covers: `(hi, lo, value)`. -/
def rowFields : List (List (Nat × Nat × Nat)) :=
  [0, 1, 2, 3, 4, 5].map (fun op => [(7, 0, op), (31, 8, 0)]) ++
  [[(7, 0, 6), (15, 15, 0), (31, 17, 0)], [(7, 0, 7), (15, 15, 0), (31, 18, 0)],
    [(7, 0, 8), (23, 20, 0), (15, 15, 0), (19, 16, 0), (31, 24, 0)]] ++
  [1, 2, 3, 4, 5, 6].map fun sub => [(7, 0, 8), (23, 20, sub), (19, 8, 0), (31, 24, 0)]

/-- A row matches a word exactly if each of the row's fields has its value in the word. -/
theorem hits_iff (c : Word) (j : Fin opRows.length) :
    opRows[j].hits c = true ↔ ∀ f ∈ rowFields[j], field c f.1 f.2.1 = f.2.2 := by
  have row : ∀ j : Fin opRows.length, opRows[j].maskBits = fieldsMask (rowFields[j].map fun f => (f.1, f.2.1)) ∧
      opRows[j].matchBits &&& opRows[j].maskBits = opRows[j].matchBits ∧
      ∀ f ∈ rowFields[j], field opRows[j].matchBits f.1 f.2.1 = f.2.2 := by decide
  obtain ⟨mask, in_mask, values⟩ := row j
  rw [OpRow.hits, beq_iff_eq, ← in_mask, mask, and_fieldsMask_eq_iff, List.forall_mem_map]
  exact forall₂_congr fun f hf => by rw [values f hf]

/-- Settles O3: a word that two rows match would give their match bits the same bits where both masks have ones, and
no two rows agree there. -/
theorem opcodeRowsAreDisjoint : Obligations.OpcodeRowsAreDisjoint := by
  have apart : ∀ j k : Fin opRows.length,
      opRows[j].matchBits &&& opRows[k].maskBits = opRows[k].matchBits &&& opRows[j].maskBits → j = k := by decide
  intro c j k hit_j hit_k
  rw [OpRow.hits, beq_iff_eq] at hit_j hit_k
  apply apart
  rw [← hit_j, ← hit_k, BitVec.and_assoc, BitVec.and_assoc, BitVec.and_comm opRows[j].maskBits]

/-- A word decodes to what a row that matches it builds (30_encoding.md R106). -/
theorem decode_eq_some_iff (c : Word) (i : Instr) :
    decode c = some i ↔ ∃ r ∈ opRows, r.hits c = true ∧ r.build c = i := by
  rw [decode, Option.map_eq_some_iff]
  constructor
  · rintro ⟨r, found, built⟩
    exact ⟨r, List.mem_of_find?_eq_some found, List.find?_some (p := (OpRow.hits · c)) found, built⟩
  · rintro ⟨r, row, hit_r, built⟩
    obtain ⟨q, found⟩ : ∃ q, opRows.find? (·.hits c) = some q :=
      Option.isSome_iff_exists.mp (List.find?_isSome.mpr ⟨r, row, hit_r⟩)
    obtain ⟨j, hj, rfl⟩ := List.getElem_of_mem row
    obtain ⟨k, hk, rfl⟩ := List.getElem_of_mem (List.mem_of_find?_eq_some found)
    have same := opcodeRowsAreDisjoint c ⟨j, hj⟩ ⟨k, hk⟩ hit_r (List.find?_some (p := (OpRow.hits · c)) found)
    cases same
    exact ⟨_, found, built⟩

/-- A word is illegal exactly if it misses a field of every row. -/
theorem decode_eq_none_iff (c : Word) :
    decode c = none ↔ ∀ fs ∈ rowFields, ∃ f ∈ fs, field c f.1 f.2.1 ≠ f.2.2 := by
  have rows : rowFields.length = opRows.length := by decide
  have miss (j : Fin opRows.length) :
      ¬ opRows[j].hits c = true ↔ ∃ f ∈ rowFields[j], field c f.1 f.2.1 ≠ f.2.2 := by
    rw [hits_iff]
    push Not
    rfl
  rw [decode, Option.map_eq_none_iff, List.find?_eq_none, List.forall_mem_iff_getElem, List.forall_mem_iff_getElem]
  simp only [rows]
  exact forall₂_congr fun j hj => miss ⟨j, hj⟩

end Sys2Proof
end

section
/-! Decoding and encoding undo each other (30_encoding.md R105, R106, R109). -/

namespace Sys2Proof

/-- The word of a well-formed instruction is in the instruction's row of the opcode map. -/
theorem encode_in_row (i : Instr) : Laws.EncodedRow.Statement i := by
  cases i with
  | nop => exact Laws.EncodedRow.nop
  | keyprep => exact Laws.EncodedRow.keyprep
  | keysched => exact Laws.EncodedRow.keysched
  | enc => exact Laws.EncodedRow.enc
  | dec => exact Laws.EncodedRow.dec
  | ffunc => exact Laws.EncodedRow.ffunc
  | getbit p n => exact Laws.EncodedRow.getbit p n
  | putbit p n v => exact Laws.EncodedRow.putbit p n v
  | perm n => exact Laws.EncodedRow.perm n
  | permIp => exact Laws.EncodedRow.permIp
  | permFp => exact Laws.EncodedRow.permFp
  | permE => exact Laws.EncodedRow.permE
  | permP => exact Laws.EncodedRow.permP
  | permPc1 => exact Laws.EncodedRow.permPc1
  | permPc2 => exact Laws.EncodedRow.permPc2

theorem toNat_bool_injective : Function.Injective Bool.toNat := by decide

/-- The operands of a word that is the sum of an opcode and its operands' fields (30_encoding.md R102, R103, R109). -/
theorem operands_of_sum {c : Word} {op n : Nat} (p : Plane) (v : Bool) (opcode : op < 2 ^ 8) (fits : n < 128)
    (sum : c = BitVec.ofNat 32 (op + n * 2 ^ 8 + p.code * 2 ^ 16 + v.toNat * 2 ^ 17)) :
    planeField c = p ∧ idxField c = n ∧ vField c = v := by
  have plane_bit := p.code_lt
  have v_bit := v.toNat_lt
  have value : c.toNat = op + n * 2 ^ 8 + p.code * 2 ^ 16 + v.toNat * 2 ^ 17 := by
    rw [sum, BitVec.toNat_ofNat, Nat.mod_eq_of_lt (by omega)]
  refine ⟨Plane.code_injective ?_, ?_, toNat_bool_injective ?_⟩
  · rw [code_planeField]
    omega
  · rw [idxField, field_eq_div_mod]
    omega
  · rw [toNat_vField]
    omega

/-- The row of an instruction builds it again from its word. -/
theorem build_encode (i : Instr) (h : i.wf = true) :
    (opRows[Laws.EncodedRow.rowIndex i]?.map fun r => r.build (encode i)) = some i := by
  cases i with
  | getbit p n =>
    have fits : n < 128 := of_decide_eq_true h
    have sum : encode (.getbit p n) =
        BitVec.ofNat 32 (0x06 + n * 2 ^ 8 + p.code * 2 ^ 16 + false.toNat * 2 ^ 17) := by simp [encode_getbit p fits]
    obtain ⟨plane, idx, -⟩ := operands_of_sum p false (by decide) fits sum
    exact congrArg some (congrArg₂ Instr.getbit plane idx)
  | putbit p n v =>
    have fits : n < 128 := of_decide_eq_true h
    obtain ⟨plane, idx, bit⟩ := operands_of_sum p v (by decide) fits (encode_putbit p v fits)
    change some (Instr.putbit _ _ _) = _
    rw [plane, idx, bit]
  | perm n =>
    have fits : n < 128 := of_decide_eq_true h
    have sum : encode (.perm n) =
        BitVec.ofNat 32 (0x08 + n * 2 ^ 8 + Plane.pin.code * 2 ^ 16 + false.toNat * 2 ^ 17) := by
      simp [encode_perm, Plane.code]
    obtain ⟨-, idx, -⟩ := operands_of_sum .pin false (by decide) fits sum
    exact congrArg (some ∘ Instr.perm) idx
  | _ => rfl

/-- Settles O1: an instruction's word is in its row, and the row builds the instruction from the word's fields. -/
theorem decodeEncodeRoundTrip : Obligations.DecodeEncodeRoundTrip := by
  intro i h
  obtain ⟨r, row, hit⟩ := Option.map_eq_some_iff.mp (encode_in_row i h)
  obtain ⟨q, row', built⟩ := Option.map_eq_some_iff.mp (build_encode i h)
  obtain rfl : r = q := Option.some.inj (row.symm.trans row')
  exact (decode_eq_some_iff ..).mpr ⟨r, List.mem_of_getElem? row, hit, built⟩

/-- A row without operands matches its own word alone. -/
theorem encode_of_hits_fixed {c : Word} {name : String} {m : Word} {i : Instr} (wf : i.wf = true) (word : encode i = m)
    (hit : OpRow.hits ⟨name, m, 0xFFFFFFFF, fun _ => i⟩ c = true) : i.wf = true ∧ encode i = c := by
  have whole : c &&& BitVec.allOnes 32 = m := beq_iff_eq.mp hit
  rw [BitVec.and_allOnes] at whole
  exact ⟨wf, word.trans whole.symm⟩

theorem fitsIdx_idxField (c : Word) : fitsIdx (idxField c) = true :=
  decide_eq_true (idxField_lt c)

theorem ofNat_eq_of_toNat {c : Word} {n : Nat} (value : c.toNat = n) : BitVec.ofNat 32 n = c := by
  rw [← value, BitVec.ofNat_toNat, BitVec.setWidth_eq]

/-- What a row builds from a word that it matches is well-formed and has that word. -/
theorem encode_build (c : Word) :
    ∀ r ∈ opRows, r.hits c = true → (r.build c).wf = true ∧ encode (r.build c) = c := by
  have fixed {name : String} {m : Word} {i : Instr} := encode_of_hits_fixed (c := c) (name := name) (m := m) (i := i)
  simp only [opRows, List.forall_mem_cons, List.not_mem_nil, false_implies, implies_true, and_true]
  refine ⟨fixed rfl rfl, fixed rfl rfl, fixed rfl rfl, fixed rfl rfl, fixed rfl rfl, fixed rfl rfl,
    fun hit => ⟨fitsIdx_idxField c, ?_⟩, fun hit => ⟨fitsIdx_idxField c, ?_⟩, fun hit => ⟨fitsIdx_idxField c, ?_⟩,
    fixed rfl rfl, fixed rfl rfl, fixed rfl rfl, fixed rfl rfl, fixed rfl rfl, fixed rfl rfl⟩
  · obtain ⟨op, unused, upper⟩ : field c 7 0 = 6 ∧ field c 15 15 = 0 ∧ field c 31 17 = 0 := by
      simpa [rowFields] using (hits_iff c ⟨6, by decide⟩).mp hit
    rw [field_eq_div_mod] at op unused upper
    rw [encode_getbit _ (idxField_lt c), code_planeField, idxField, field_eq_div_mod]
    exact ofNat_eq_of_toNat (by omega)
  · obtain ⟨op, unused, upper⟩ : field c 7 0 = 7 ∧ field c 15 15 = 0 ∧ field c 31 18 = 0 := by
      simpa [rowFields] using (hits_iff c ⟨7, by decide⟩).mp hit
    rw [field_eq_div_mod] at op unused upper
    rw [encode_putbit _ _ (idxField_lt c), code_planeField, toNat_vField, idxField, field_eq_div_mod]
    exact ofNat_eq_of_toNat (by omega)
  · obtain ⟨op, sub, unused, plane_and_v, upper⟩ :
      field c 7 0 = 8 ∧ field c 23 20 = 0 ∧ field c 15 15 = 0 ∧ field c 19 16 = 0 ∧ field c 31 24 = 0 := by
      simpa [rowFields] using (hits_iff c ⟨8, by decide⟩).mp hit
    rw [field_eq_div_mod] at op sub unused plane_and_v upper
    rw [encode_perm, idxField, field_eq_div_mod]
    exact ofNat_eq_of_toNat (by omega)

/-- Settles O2: the word matches a row, and decodes to what the row builds. -/
theorem encodingOfDecodedWordIsTheWord : Obligations.EncodingOfDecodedWordIsTheWord := by
  intro c i decoded
  obtain ⟨r, row, hit, rfl⟩ := (decode_eq_some_iff c i).mp decoded
  exact encode_build c r row hit

/-- Settles O5: by evaluation of the decoder. -/
theorem writtenWordsDecode : Obligations.WrittenWordsDecode := by
  unfold Obligations.WrittenWordsDecode
  decide

end Sys2Proof
end

section
/-! The illegal words (30_encoding.md R107, 60_exceptions.md R262). -/

namespace Sys2Proof.Machine

theorem engineTurn_of_pending {s : State} {c : Word} (pending : s.pending = some c) :
    s.engineTurn = s.runWord c := by
  simp only [State.engineTurn, pending]

/-- Settles O4: a word that misses every row has an opcode of no row, or misses the other fields of each row with its
opcode; the rows with opcode 8 are told apart by `c[23:20]`. -/
theorem illegalWordsAreThoseListed : Obligations.IllegalWordsAreThoseListed := by
  constructor
  · intro c
    rw [decode_eq_none_iff]
    simp only [rowFields, List.map, List.cons_append, List.nil_append, List.forall_mem_cons, List.exists_mem_cons_iff,
      List.not_mem_nil, false_and, exists_false, or_false, false_implies, implies_true, and_true]
    generalize field c 7 0 = op
    rcases (by omega : 9 ≤ op ∨ op ≤ 5 ∨ op = 6 ∨ op = 7 ∨ op = 8) with no_row | plain | rfl | rfl | rfl
    · obtain ⟨k, rfl⟩ := Nat.exists_eq_add_of_le' no_row
      simp
    · interval_cases op <;> simp
    · simp
    · simp
    · simp only [ne_eq, Nat.reduceEqDiff, Nat.reduceLeDiff, not_false_eq_true, not_true_eq_false, true_or, true_and,
        false_or, false_and]
      omega
  · intro s c pending illegal
    rw [engineTurn_of_pending pending]
    rcases runWord_cases s c with ⟨-, reports⟩ | ⟨i, decoded, -⟩
    · exact reports
    · cases illegal.symm.trans decoded

end Sys2Proof.Machine
end

section
/-! A command line that is taken (30_encoding.md R109). -/

namespace Sys2Proof.Machine

/-- The assembler's answer to a line: the word of the instruction that the line reads as, or a refusal. -/
theorem assembleCommand_eq (line : List Char) :
    assembleCommand line = (readInstr (headWord line) (operandsOf (tailText line))).bind fun i =>
      if i.wf = true then some (encode i) else none := by
  rw [assembleCommand, parseInstr, Option.map_bind]
  refine congrArg _ (funext fun i => ?_)
  rw [Function.comp, apply_ite (Option.map encode)]
  rfl

/-- Settles O6: a line that is taken reads as an instruction, whose word decodes to it by the round trip. -/
theorem assembledWordsDecode : Obligations.AssembledWordsDecode := by
  constructor
  · intro line c assembled
    rw [assembleCommand_eq] at assembled
    obtain ⟨i, read, taken⟩ := Option.bind_eq_some_iff.mp assembled
    obtain ⟨wf, word⟩ := Option.ite_none_right_eq_some.mp taken
    cases word
    exact ⟨i, read, wf, decodeEncodeRoundTrip i wf, rfl⟩
  · intro line i read
    rw [assembleCommand_eq, read, Option.bind_some]
    refine ⟨fun wf => ⟨encode i, if_pos wf, decodeEncodeRoundTrip i wf⟩, fun past => if_neg ?_⟩
    rw [past]
    exact Bool.false_ne_true

end Sys2Proof.Machine
end

section
/-! The host's BNZ and the wait of EXEC (30_encoding.md R110, R112, R113). -/

namespace Sys2Proof.Machine

theorem busRead_off (s : State) (r : Reg) : s.busRead r.off .w32 = some ⟨.okay, some (s.readReg r)⟩ := by
  rw [State.busRead, if_pos (off_lt_window r), hostRead_off]

/-- The host's turn at a `BNZ`: the bus answers with the register, and the branch is on what it answers. -/
theorem hostTurn_bnz {s : State} {r : Reg} {mask : Word} {target : Nat}
    (next : s.program[s.hostPc]? = some (.bnz r mask target)) :
    s.hostTurn = s.advanceHost (if s.readReg r &&& mask ≠ 0 then target else s.hostPc + 1)
      (some ⟨.okay, some (s.readReg r)⟩) := by
  rw [hostTurn_of_stmt next, State.hostStmt, busRead_off]

/-- Settles O58: the read does not depend on the turns to come, and each of the two values of the test gives its
position. -/
theorem bnzBranchesOnItsMask : Obligations.BnzBranchesOnItsMask := by
  intro s ts r mask target turn next
  have read : (s.withTurns ts).readReg r = s.readReg r := rfl
  rw [step_host turn, hostTurn_bnz (s := s.withTurns ts) next, read]
  refine ⟨s.readReg r, hostRead_off s r, fun meets => ?_, fun misses => ?_⟩
  · rw [if_pos meets]
    rfl
  · rw [if_neg (not_not_intro misses)]
    rfl

theorem status_and_one_eq_zero_iff (s : State) : s.readReg .status &&& 1 = 0 ↔ s.busy = false := by
  have bit : (s.readReg .status).getLsbD 0 = s.busy := statusWordLayout s 0 (by decide)
  have low := BitVec.and_one_eq_setWidth_ofBool_getLsbD (x := s.readReg .status)
  rw [bit] at low
  rw [show (1 : Word) = 1#32 from rfl, low]
  cases s.busy <;> decide

/-- The host's step at a `WAIT`: it stays there exactly while the engine is busy (30_encoding.md R112). -/
theorem step_wait {s : State} {ts : List Turn} (turn : s.turns = .host :: ts)
    (waits : s.program[s.hostPc]? = some (waitStmt s.hostPc)) :
    step s = .next ((s.withTurns ts).advanceHost (if s.busy = true then s.hostPc else s.hostPc + 1)
      (some ⟨.okay, some (s.readReg .status)⟩)) := by
  have polled := hostTurn_bnz (s := s.withTurns ts) waits
  simp only [ne_eq, status_and_one_eq_zero_iff, Bool.not_eq_false] at polled
  rw [step_host turn, polled]
  rfl

/-- Polls of a busy engine leave the host at its `WAIT` and everything else as it was. -/
theorem runSteps_busy_polls (n m : Nat) (ts : List Turn) {s : State} (busy : s.busy = true)
    (waits : s.program[s.hostPc]? = some (waitStmt s.hostPc)) :
    ∃ r, runSteps (m + n) (s.withTurns (List.replicate n .host ++ ts)) =
      runSteps m ((s.withTurns ts).advanceHost s.hostPc r) := by
  induction n generalizing s with
  | zero => exact ⟨s.response, rfl⟩
  | succ n ih =>
    have polled := step_wait (s := s.withTurns (List.replicate (n + 1) .host ++ ts)) rfl waits
    rw [State.withTurns_busy, if_pos busy] at polled
    obtain ⟨r, rest⟩ := ih (s := s.advanceHost s.hostPc (some ⟨.okay, some (s.readReg .status)⟩)) busy waits
    exact ⟨r, (runSteps_succ polled).trans rest⟩

/-- A check's two outcomes, each followed by one update of the state. -/
theorem next_ite_map (f : State → State) {check : Bool} {a b t : State}
    (answer : (if check then .next a else .next b : Result) = .next t) :
    (if check then .next (f a) else .next (f b) : Result) = .next (f t) := by
  cases check <;> (cases answer; rfl)

/-- A command neither reads nor writes the host's own fields. -/
theorem exec_withTurns_advanceHost {i : Instr} {s t : State} (ts : List Turn) (pc : Nat) (r : Option Response)
    (executed : exec i s = .next t) :
    exec i ((s.withTurns ts).advanceHost pc r) = .next ((t.withTurns ts).advanceHost pc r) := by
  have checked {check : Bool} {a b : State} := next_ite_map (check := check) (a := a) (b := b) (t := t)
    fun u => (u.withTurns ts).advanceHost pc r
  cases i with
  | enc => exact checked executed
  | dec => exact checked executed
  | getbit p n => cases p <;> exact checked executed
  | putbit p n v => cases p <;> exact checked executed
  | perm n => exact checked executed
  | _ =>
    cases executed
    rfl

/-- The engine's turn on a command's word is the command. -/
theorem step_engine_encode {s : State} {i : Instr} {ts : List Turn} (wf : i.wf = true)
    (turn : s.turns = .engine :: ts) (pending : s.pending = some (encode i)) :
    step s = exec i (s.withTurns ts).takePending := by
  simp only [step, turn]
  rw [engineTurn_of_pending (s := s.withTurns ts) pending, State.runWord, decodeEncodeRoundTrip i wf]

/-- The host's step at the issue of a command to an idle engine: acceptance (45_control.md R240). -/
theorem step_issue {s : State} {c : Word} {ts : List Turn} (turn : s.turns = .host :: ts) (idle : s.busy = false)
    (next : s.program[s.hostPc]? = some (wrStmt .cmd c)) :
    step s = .next (((s.withTurns ts).accept c).advanceHost (s.hostPc + 1) (some ⟨.okay, none⟩)) := by
  rw [step_host turn, hostTurn_of_stmt (s := s.withTurns ts) next, wrStmt, State.hostStmt, State.busWrite,
    if_pos (off_lt_window .cmd), hostWrite_off (s.withTurns ts) .cmd c idle nofun]
  rfl

theorem exec_answers (i : Instr) (s : State) : ∃ t, exec i s = .next t := by
  rcases exec_cases i s with ⟨_, _, _, _, _, _, _, _, completes, -⟩ | ⟨_, reports, -⟩
  · exact ⟨_, completes⟩
  · exact ⟨_, reports⟩

/-- Settles O56: the issue, the polls of a busy engine, the command, and the poll that ends the wait. -/
theorem execWaitsForItsCommand : Obligations.ExecWaitsForItsCommand := by
  intro s i n rest wf idle issues waits
  obtain ⟨u, executed⟩ := exec_answers i (s.accept (encode i)).takePending
  obtain ⟨-, -, -, -, -, ovr_kept, -, program_kept, -⟩ := noCommandWritesTheHostsRegisters i _ u executed
  obtain ⟨v, e, rfl, -, -⟩ := exec_completes executed
  have issued := step_issue (s := s.withTurns (.host :: (List.replicate n .host ++ .engine :: .host :: rest)))
    rfl idle issues
  obtain ⟨r, polled⟩ := runSteps_busy_polls n 2 (.engine :: .host :: rest)
    (s := (s.accept (encode i)).advanceHost (s.hostPc + 1) (some ⟨.okay, none⟩)) rfl waits
  have ran := (step_engine_encode (ts := .host :: rest)
    (s := ((s.accept (encode i)).withTurns (.engine :: .host :: rest)).advanceHost (s.hostPc + 1) r) wf rfl rfl).trans
    (exec_withTurns_advanceHost (.host :: rest) (s.hostPc + 1) r executed)
  have waited := step_wait (s := ((v.complete e).withTurns (.host :: rest)).advanceHost (s.hostPc + 1) r) rfl
    ((congrArg (·[s.hostPc + 1]?) program_kept).trans waits)
  rw [Nat.add_comm 2 n] at polled
  have run := (runSteps_succ issued).trans (polled.trans ((runSteps_succ ran).trans (runSteps_succ waited)))
  exact ⟨_, _, run, executed, rfl, ovr_kept⟩

end Sys2Proof.Machine
end

section
/-! The written form of the commands (30_encoding.md R109; the blanks of log entry 9): what the words of a line and its
numbers read as. -/

namespace Sys2Proof.Machine

/-- A text that stands as one operand of a line: not empty, with no blank and no comma. -/
def IsOperand (w : List Char) : Prop := w ≠ [] ∧ ∀ c ∈ w, c ≠ ' ' ∧ c ≠ ','

/-- Operands as a line writes them, with a comma and a blank between two. -/
def joinOperands (ws : List (List Char)) : List Char := ", ".toList.intercalate ws

theorem IsOperand.trim_eq {w : List Char} (h : IsOperand w) : trim w = w :=
  trim_eq_self w (fun c first => (h.2 c (List.mem_of_mem_head? first)).1)
    fun c last => (h.2 c (List.mem_of_getLast? last)).1

theorem trim_cons_blank (cs : List Char) : trim (' ' :: cs) = trim cs := by
  rw [trim, List.dropWhile_cons_of_pos (by decide), trim]

theorem map_trim_splitAtChar_blank (cs : List Char) :
    (splitAtChar ',' (' ' :: cs)).map trim = (splitAtChar ',' cs).map trim := by
  rw [splitAtChar]
  split
  · exact absurd ‹_› (splitAtChar_ne_nil ',' cs)
  · rename_i first others parts
    simp [parts, trim_cons_blank]

theorem map_trim_splitAtChar_joinOperands {ws : List (List Char)} (h : ∀ w ∈ ws, IsOperand w)
    (some_word : ws ≠ []) :
    (splitAtChar ',' (joinOperands ws)).map trim = ws := by
  induction ws with
  | nil => contradiction
  | cons w ws ih =>
    obtain ⟨operand, operands⟩ := List.forall_mem_cons.mp h
    have no_comma : ∀ c ∈ w, c ≠ ',' := fun c hc => (operand.2 c hc).2
    cases ws with
    | nil =>
      rw [joinOperands, List.intercalate_singleton, splitAtChar_last _ _ no_comma]
      exact congrArg (fun x => [x]) operand.trim_eq
    | cons w' ws =>
      have join : joinOperands (w :: w' :: ws) = w ++ ',' :: ' ' :: joinOperands (w' :: ws) := by
        simp [joinOperands]
      rw [join, splitAtChar_append _ _ _ no_comma, List.map_cons, map_trim_splitAtChar_blank, ih operands (by simp),
        operand.trim_eq]

/-- Operands written together neither begin nor end with a blank. -/
theorem joinOperands_ends {ws : List (List Char)} (h : ∀ w ∈ ws, IsOperand w) (some_word : ws ≠ []) :
    (∀ c, (joinOperands ws).head? = some c → c ≠ ' ') ∧ (∀ c, (joinOperands ws).getLast? = some c → c ≠ ' ') ∧
      joinOperands ws ≠ [] := by
  induction ws with
  | nil => contradiction
  | cons w ws ih =>
    obtain ⟨⟨nonempty, chars⟩, operands⟩ := List.forall_mem_cons.mp h
    have head : ∀ c, w.head? = some c → c ≠ ' ' := fun c first => (chars c (List.mem_of_mem_head? first)).1
    have last : ∀ c, w.getLast? = some c → c ≠ ' ' := fun c last => (chars c (List.mem_of_getLast? last)).1
    cases ws with
    | nil =>
      rw [joinOperands, List.intercalate_singleton]
      exact ⟨head, last, nonempty⟩
    | cons w' ws =>
      obtain ⟨-, last', nonempty'⟩ := ih operands (by simp)
      rw [joinOperands, List.intercalate_cons_cons]
      refine ⟨?_, fun c hc => last' c (getLast?_append_right _ _ nonempty' c hc), by simp [nonempty]⟩
      rw [List.append_assoc, List.head?_append_of_ne_nil _ nonempty]
      exact head

/-- A line of a name and operands reads as that name and those operands. -/
theorem read_line {name : List Char} {ws : List (List Char)} (word : name.all (· != ' ') = true)
    (nonempty : name ≠ []) (h : ∀ w ∈ ws, IsOperand w) (some_word : ws ≠ []) :
    headWord (name ++ ' ' :: joinOperands ws) = name ∧
      operandsOf (tailText (name ++ ' ' :: joinOperands ws)) = ws := by
  obtain ⟨head, last, some_text⟩ := joinOperands_ends h some_word
  have trimmed := trim_eq_self _ head last
  obtain ⟨first, rest⟩ := headWord_tailText name _ word nonempty trimmed some_text last
  rw [first, rest, operandsOf, trimmed, if_neg some_text, map_trim_splitAtChar_joinOperands h some_word]
  exact ⟨rfl, rfl⟩

/-- A decimal number is not taken for a hexadecimal one. -/
theorem parseNat_decimal {cs : List Char} (nonempty : cs ≠ []) (no_x : 'x' ∉ cs) :
    parseNat cs = digitsVal 10 0 cs := by
  unfold parseNat
  split
  · contradiction
  · simp at no_x
  · rfl

/-- A number in either of its written forms is one operand and reads as the number. -/
theorem numeral_reads {n : Nat} {num : List Char}
    (form : num ∈ [Nat.toDigits 10 n, '0' :: 'x' :: Nat.toDigits 16 n]) :
    IsOperand num ∧ parseNat num = some n := by
  simp only [List.mem_cons, List.not_mem_nil, or_false] at form
  rcases form with rfl | rfl
  · have chars := toDigits_char 10 (.inl rfl) n
    refine ⟨⟨Nat.toDigits_ne_nil, fun c hc => (chars c hc).1⟩, ?_⟩
    rw [parseNat_decimal Nat.toDigits_ne_nil fun hx => (chars 'x' hx).2 rfl]
    exact digitsVal_toDigits 10 (.inl rfl) n
  · have chars := toDigits_char 16 (.inr rfl) n
    refine ⟨⟨by simp, ?_⟩, ?_⟩
    · simp only [List.forall_mem_cons]
      exact ⟨by decide, by decide, fun c hc => (chars c hc).1⟩
    · rw [← digitsVal_toDigits 16 (.inr rfl) n]
      obtain ⟨c, cs, digits⟩ := List.exists_cons_of_ne_nil (Nat.toDigits_ne_nil (n := n) (b := 16))
      rw [digits]
      rfl

theorem parseBits_one {v : Nat} {bit : List Char} (value : parseNat bit = some v) :
    parseBits 1 bit = if v < 2 then some (BitVec.ofNat 1 v) else none := by
  rw [parseBits, value, Option.bind_some, Nat.pow_one]

theorem plane_reads {plane : String × Nat} (named : plane ∈ [("PIN", 0), ("POUT", 1)]) :
    IsOperand plane.1.toList ∧ ∃ p, parsePlane plane.1.toList = some p ∧ p.code = plane.2 := by
  simp only [List.mem_cons, List.not_mem_nil, or_false] at named
  rcases named with rfl | rfl
  · exact ⟨by simp [IsOperand], .pin, rfl, rfl⟩
  · exact ⟨by simp [IsOperand], .pout, rfl, rfl⟩

/-- A line of a name and operands assembles to the word of what they read as, if it has one. -/
theorem assembleCommand_line {name : List Char} {ws : List (List Char)} (word : name.all (· != ' ') = true)
    (nonempty : name ≠ []) (h : ∀ w ∈ ws, IsOperand w) (some_word : ws ≠ []) :
    assembleCommand (name ++ ' ' :: joinOperands ws) =
      (readInstr name ws).bind fun i => if i.wf = true then some (encode i) else none := by
  obtain ⟨first, rest⟩ := read_line word nonempty h some_word
  rw [assembleCommand_eq, first, rest]

/-- An instruction with one 7-bit operand has a word exactly if the operand fits (30_encoding.md R102). -/
theorem word_of_fits {i : Instr} {n : Nat} {w : Word} (operand : i.wf = fitsIdx n) (word : n < 128 → encode i = w) :
    (if i.wf = true then some (encode i) else none) = if n < 128 then some w else none := by
  have fits : i.wf = true ↔ n < 128 := by rw [operand, fitsIdx, decide_eq_true_iff]
  by_cases h : n < 128
  · rw [if_pos (fits.mpr h), if_pos h, word h]
  · rw [if_neg (h ∘ fits.mp), if_neg h]

section
variable {n : Nat} {num : List Char} (form : num ∈ [Nat.toDigits 10 n, '0' :: 'x' :: Nat.toDigits 16 n])
include form

theorem assembleCommand_perm : assembleCommand ("PERM ".toList ++ num) =
    if n < 128 then some (BitVec.ofNat 32 (0x08 + n * 2 ^ 8)) else none := by
  obtain ⟨operand, value⟩ := numeral_reads form
  have line : "PERM ".toList ++ num = "PERM".toList ++ ' ' :: joinOperands [num] := by simp [joinOperands]
  have read : readInstr "PERM".toList [num] = some (.perm n) := by rw [readInstr, if_pos rfl, value]; rfl
  rw [line, assembleCommand_line (by decide) (by decide) (by simpa using operand) (by simp), read]
  exact word_of_fits rfl fun _ => encode_perm n

variable {plane : String × Nat} (named : plane ∈ [("PIN", 0), ("POUT", 1)])
include named

theorem assembleCommand_getbit :
    assembleCommand ("GETBIT ".toList ++ plane.1.toList ++ ", ".toList ++ num) =
      if n < 128 then some (BitVec.ofNat 32 (0x06 + n * 2 ^ 8 + plane.2 * 2 ^ 16)) else none := by
  obtain ⟨operand, value⟩ := numeral_reads form
  obtain ⟨plane_operand, p, plane_value, code⟩ := plane_reads named
  have line : "GETBIT ".toList ++ plane.1.toList ++ ", ".toList ++ num =
      "GETBIT".toList ++ ' ' :: joinOperands [plane.1.toList, num] := by simp [joinOperands]
  have read : readInstr "GETBIT".toList [plane.1.toList, num] = some (.getbit p n) := by
    rw [readInstr, if_pos rfl, plane_value, value]
    rfl
  rw [line, assembleCommand_line (by decide) (by decide) (by simpa using ⟨plane_operand, operand⟩) (by simp), read,
    ← code]
  exact word_of_fits rfl fun fits => encode_getbit p fits

theorem assembleCommand_putbit {v : Nat} {bit : List Char}
    (bit_form : bit ∈ [Nat.toDigits 10 v, '0' :: 'x' :: Nat.toDigits 16 v]) :
    assembleCommand ("PUTBIT ".toList ++ plane.1.toList ++ ", ".toList ++ num ++ ", ".toList ++ bit) =
      if n < 128 ∧ v < 2 then some (BitVec.ofNat 32 (0x07 + n * 2 ^ 8 + plane.2 * 2 ^ 16 + v * 2 ^ 17))
      else none := by
  obtain ⟨operand, value⟩ := numeral_reads form
  obtain ⟨bit_operand, bit_value⟩ := numeral_reads bit_form
  obtain ⟨plane_operand, p, plane_value, code⟩ := plane_reads named
  have line : "PUTBIT ".toList ++ plane.1.toList ++ ", ".toList ++ num ++ ", ".toList ++ bit =
      "PUTBIT".toList ++ ' ' :: joinOperands [plane.1.toList, num, bit] := by simp [joinOperands]
  have read : readInstr "PUTBIT".toList [plane.1.toList, num, bit] =
      if v < 2 then some (.putbit p n ((BitVec.ofNat 1 v).getLsbD 0)) else none := by
    rw [readInstr, if_pos rfl, plane_value, value, parseBits_one bit_value]
    split <;> rfl
  rw [line, assembleCommand_line (by decide) (by decide) (by simpa using ⟨plane_operand, operand, bit_operand⟩)
    (by simp), read, ← code]
  by_cases v_fits : v < 2
  · have v_bit : ((BitVec.ofNat 1 v).getLsbD 0).toNat = v := by interval_cases v <;> rfl
    simp only [v_fits, and_true, if_true]
    exact word_of_fits rfl fun fits => (encode_putbit p _ fits).trans (by rw [v_bit])
  · simp only [v_fits, and_false, if_false, Option.bind_none]

end

/-- Settles O57: the lines without operands by evaluation of the assembler, the others by what their words read as. -/
theorem commandTextAssembles : Obligations.CommandTextAssembles := by
  refine ⟨by decide, fun n v num form bit bit_form => ⟨assembleCommand_perm form, fun plane named => ?_⟩⟩
  exact ⟨assembleCommand_getbit form named, assembleCommand_putbit form named bit_form⟩

end Sys2Proof.Machine
end

section
/-! The words of the bit-plane commands and the bits they read and write, each in the spec's numbering
(00_scope.md R7, 40_bitplane.md R130 to R132). -/

namespace Sys2Proof.Machine

theorem decode_of_encode_eq {i : Instr} {c : Word} (wf : i.wf = true) (word : encode i = c) : decode c = some i :=
  word ▸ decodeEncodeRoundTrip i wf

theorem ite_pout_eq_code_mul (p : Plane) (n : Nat) : (if p = .pout then n else 0) = p.code * n := by
  cases p <;> simp [Plane.code]

theorem ite_eq_toNat_mul (v : Bool) (n : Nat) : (if v then n else 0) = v.toNat * n := by
  cases v <;> simp

theorem legalBit_iff (i : Nat) : legalBit i = true ↔ 1 ≤ i ∧ i ≤ 64 := by simp [legalBit]

theorem legalBit_eq_false_iff (i : Nat) : legalBit i = false ↔ i = 0 ∨ 65 ≤ i := by
  rw [← Bool.not_eq_true, legalBit_iff]
  omega

/-- DES bit `i` of a plane in its buffer: bit `7 − (i−1) mod 8` of byte `⌊(i−1) / 8⌋` (40_bitplane.md R131). -/
theorem getLsbD_byteOf_eq_desBit (x : Block) {i : Nat} (h1 : 1 ≤ i) (h64 : i ≤ 64) :
    (byteOf x ((i - 1) / 8)).getLsbD (7 - (i - 1) % 8) = desBit x i := by
  rw [byteOf, BitVec.getLsbD_extractLsb', desBit,
    show 56 - 8 * ((i - 1) / 8) + (7 - (i - 1) % 8) = 64 - i by omega]
  simp [show 7 - (i - 1) % 8 < 8 by omega]

theorem getLsbD_eq_desBit {w : Nat} (x : BitVec w) {k : Nat} (hk : k < w) : x.getLsbD k = desBit x (w - k) := by
  rw [desBit, show w - (w - k) = k by omega]

/-- PUTBIT's plane, read by its power-of-two index (40_bitplane.md R132). -/
theorem getLsbD_putDesBit (x : Block) {i k : Nat} (v : Bool) (h1 : 1 ≤ i) (h64 : i ≤ 64) (hk : k < 64) :
    (putDesBit x i v).getLsbD k = if k = 64 - i then v else x.getLsbD k := by
  have same_bit : 64 - k = i ↔ k = 64 - i := by omega
  rw [getLsbD_eq_desBit _ hk, getLsbD_eq_desBit x hk, putDesBit, desBit_ofDesBits _ (by omega) (by omega)]
  simp only [same_bit]

theorem exec_getbit_of_legal (s : State) (p : Plane) {i : Nat} (legal : legalBit i = true) :
    exec (.getbit p i) s = .next ({ s with bitres := desBit (s.plane p) i }.complete none) := if_pos legal

theorem exec_getbit_of_not_legal (s : State) (p : Plane) {i : Nat} (range : legalBit i = false) :
    exec (.getbit p i) s = .next (s.raise .bitRange) := if_neg (ne_true_of_eq_false range)

theorem exec_putbit_of_legal (s : State) (p : Plane) {i : Nat} (v : Bool) (legal : legalBit i = true) :
    exec (.putbit p i v) s = .next ((s.setPlane p (putDesBit (s.plane p) i v)).complete none) := if_pos legal

theorem exec_putbit_of_not_legal (s : State) (p : Plane) {i : Nat} (v : Bool) (range : legalBit i = false) :
    exec (.putbit p i v) s = .next (s.raise .bitRange) := if_neg (ne_true_of_eq_false range)

/-- Settles O28: the word is the command's sum of fields, the bit is found in the plane's buffer, and the two clauses
are the two outcomes of the range check. -/
theorem getbitReadsTheNamedBit : Obligations.GetbitReadsTheNamedBit := by
  refine ⟨fun p i fits => ?_, fun s p i => ⟨fun h1 h64 => ?_, fun range => ?_⟩⟩
  · rw [ite_pout_eq_code_mul]
    exact decode_of_encode_eq (decide_eq_true fits) (encode_getbit p fits)
  · rw [exec_getbit_of_legal s p ((legalBit_iff i).mpr ⟨h1, h64⟩), ← getLsbD_byteOf_eq_desBit _ h1 h64]
    cases p <;> rfl
  · exact exec_getbit_of_not_legal s p ((legalBit_eq_false_iff i).mpr range)

/-- Settles O29: as for GETBIT, with the plane read back bit by bit after the write. -/
theorem putbitWritesOnlyTheNamedBit : Obligations.PutbitWritesOnlyTheNamedBit := by
  refine ⟨fun p i v fits => ?_, fun s p i v => ⟨fun h1 h64 => ?_, fun range => ?_⟩⟩
  · rw [ite_pout_eq_code_mul, ite_eq_toNat_mul]
    exact decode_of_encode_eq (decide_eq_true fits) (encode_putbit p v fits)
  · rw [exec_putbit_of_legal s p v ((legalBit_iff i).mpr ⟨h1, h64⟩)]
    refine ⟨putDesBit (s.plane p) i v, fun k hk => ?_, ?_⟩
    · rw [getLsbD_putDesBit _ v h1 h64 hk]
      cases p <;> rfl
    · cases p <;> rfl
  · exact exec_putbit_of_not_legal s p v ((legalBit_eq_false_iff i).mpr range)

end Sys2Proof.Machine
end

section
/-! The PERM commands (40_bitplane.md R133 to R142): the output plane of `PermPlane` bit by bit, for the user table
and for the tables of the ROM. -/

namespace Sys2Proof.Machine

/-- The output plane of `PermPlane(T, n)`, with `j` counted from 0 at the most significant end (40_bitplane.md R134). -/
theorem getMsbD_permPlane (T : List Nat) (n : Nat) (pin pout : Block) {j : Nat} (hj : j < 64) :
    (permPlane T n pin pout).getMsbD j =
      if j < n then desBit pin (entry T (j + 1)) else if j < 8 * bytesTouched n then false else pout.getMsbD j := by
  rw [getMsbD_eq_desBit _ hj, getMsbD_eq_desBit pout hj, permPlane, desBit_ofDesBits _ (by omega) (by omega)]
  simp only [Nat.succ_le_iff]

/-! ### The user table -/

theorem entry_userTable (s : State) (k : Fin 64) : entry s.userTable (k.val + 1) = s.ptab[k].toNat := by
  simp [entry, State.userTable]

/-- PERM's checks (40_bitplane.md R133). -/
theorem permLegal_iff (s : State) (n : Nat) : s.permLegal n = true ↔
    n ≤ 64 ∧ ∀ k : Fin 64, k.val < n → 1 ≤ s.ptab[k].toNat ∧ s.ptab[k].toNat ≤ 64 := by
  rw [State.permLegal, Bool.and_eq_true, decide_eq_true_eq, List.all_eq_true, List.forall_mem_iff_getElem]
  refine and_congr_right fun _ => ⟨fun entries k used => ?_, fun entries k hk => ?_⟩
  · have := entries k.val (by simp [State.userTable, used])
    simpa [State.userTable, legalBit_iff] using this
  · have bounds : k < n ∧ k < 64 := by simpa [State.userTable] using hk
    simpa [State.userTable, legalBit_iff] using entries ⟨k, bounds.2⟩ bounds.1

theorem exec_perm_of_legal {s : State} {n : Nat} (legal : s.permLegal n = true) :
    exec (.perm n) s = .next (s.permute s.userTable n) := if_pos legal

theorem exec_perm_of_not_legal {s : State} {n : Nat} (range : ¬ s.permLegal n = true) :
    exec (.perm n) s = .next (s.raise .permRange) := if_neg range

/-- Settles O30: POUT is the plane of the user table, each used entry a bit of PIN; the error clause is the negation of
PERM's checks. -/
theorem permFollowsTheUserTable : Obligations.PermFollowsTheUserTable := by
  refine ⟨fun n fits => decode_of_encode_eq (decide_eq_true fits) (encode_perm n),
    fun s n => ⟨fun count entries => ?_, fun range => ?_⟩⟩
  · refine ⟨permPlane s.userTable n s.pin s.pout, fun j => ?_,
      exec_perm_of_legal ((permLegal_iff s n).mpr ⟨count, entries⟩)⟩
    rw [getMsbD_permPlane _ _ _ _ j.isLt, entry_userTable]
    refine ite_congr rfl (fun used => ?_) fun _ => rfl
    exact desBit_eq_getMsbD _ (entries j used).1 (entries j used).2
  · refine exec_perm_of_not_legal fun legal => ?_
    obtain ⟨count, entries⟩ := (permLegal_iff s n).mp legal
    obtain past | ⟨k, used, outside⟩ := range
    · omega
    · have := entries k used
      omega

/-- Settles O38: the identity table's entries are legal, and entry `j + 1` names the bit that PERM puts at `j`. -/
theorem identityTableCopiesThePrefix : Obligations.IdentityTableCopiesThePrefix := by
  intro s n count identity
  have entries (k : Fin 64) (used : k.val < n) : 1 ≤ s.ptab[k].toNat ∧ s.ptab[k].toNat ≤ 64 := by
    rw [identity k used]
    omega
  obtain ⟨x, bits, executed⟩ := (permFollowsTheUserTable.2 s n).1 count entries
  refine ⟨x, fun j => (bits j).trans (ite_congr rfl (fun used => ?_) fun _ => rfl), executed⟩
  rw [identity j used, Nat.add_sub_cancel]

/-! ### The tables of the ROM -/

theorem legalTable_length {n w : Nat} {T : List Nat} (legal : legalTable n w T = true) : T.length = n :=
  beq_iff_eq.mp (Bool.and_eq_true_iff.mp legal).1

/-- The leading bits of a bit string keep their numbers (00_scope.md R7). -/
theorem desBit_leading {v w : Nat} (x : BitVec v) {j : Nat} (fits : w ≤ v) (h1 : 1 ≤ j) (hw : j ≤ w) :
    desBit (x.extractLsb' (v - w) w) j = desBit x j := by
  rw [desBit, BitVec.getLsbD_extractLsb', desBit, show v - w + (w - j) = v - j by omega]
  simp [show w - j < w by omega]

section
variable {n w : Nat} {T : List Nat} (legal : legalTable n w T = true) (fits : w ≤ 64)
include legal fits

/-- A table that fills whole bytes of the output leaves nothing to fill with zeros (40_bitplane.md R137). -/
theorem getMsbD_permPlane_of_whole_bytes (whole : n % 8 = 0) (pin pout : Block) {j : Nat} (hj : j < 64) :
    (permPlane T n pin pout).getMsbD j = if j < n then pin.getMsbD (T.getD j 0 - 1) else pout.getMsbD j := by
  have touched : 8 * bytesTouched n = n := by
    unfold bytesTouched
    omega
  rw [getMsbD_permPlane _ _ _ _ hj, touched]
  split
  · next moved =>
    obtain ⟨positive, bounded⟩ := legalTable_bounds legal (k := j + 1) (by omega) (by omega)
    rw [desBit_eq_getMsbD _ positive (by omega), entry, Nat.add_sub_cancel]
  · rfl

/-- A ROM permutation of `n` bits, a whole number of bytes: the table's length and the next state of the command. -/
theorem rom_permutation (whole : n % 8 = 0) {i : Instr} (arm : ∀ s, exec i s = .next (s.permute T n)) :
    T.length = n ∧ ∀ s : State, ∃ x : Block,
      (∀ j : Fin 64, x.getMsbD j.val =
        if j.val < n then s.pin.getMsbD (T.getD j.val 0 - 1) else s.pout.getMsbD j.val) ∧
      exec i s = .next { s with pout := x, busy := false, done := true, err := false, ecode := 0 } :=
  ⟨legalTable_length legal, fun s => ⟨permPlane T n s.pin s.pout,
    fun j => getMsbD_permPlane_of_whole_bytes legal fits whole s.pin s.pout j.isLt, arm s⟩⟩

/-- The leading bits of the output plane are `Perm` of the leading bits of the input (40_bitplane.md R142). -/
theorem leading_permPlane (short : n ≤ 64) (pin pout : Block) :
    (permPlane T n pin pout).extractLsb' (64 - n) n = perm n T (pin.extractLsb' (64 - w) w) := by
  apply eq_of_desBit
  intro j h1 hn
  obtain ⟨positive, bounded⟩ := legalTable_bounds legal h1 hn
  rw [desBit_leading _ short h1 hn, desBit_perm _ _ h1 hn, desBit_leading _ fits positive bounded, permPlane,
    desBit_ofDesBits _ h1 (by omega), if_pos hn]

end

/-- Settles O31: row by row, the word by the decoder and the rest by the law of a legal table of whole bytes. -/
theorem romPermutationsFollowTheirTables : Obligations.RomPermutationsFollowTheirTables := by
  unfold Obligations.RomPermutationsFollowTheirTables
  simp only [List.forall_mem_cons, List.not_mem_nil, false_implies, implies_true, and_true]
  exact ⟨⟨by decide, rom_permutation legal_tableIP (by decide) rfl fun _ => rfl⟩,
    ⟨by decide, rom_permutation legal_tableFP (by decide) rfl fun _ => rfl⟩,
    ⟨by decide, rom_permutation legal_tableE (by decide) rfl fun _ => rfl⟩,
    ⟨by decide, rom_permutation legal_tableP (by decide) rfl fun _ => rfl⟩,
    ⟨by decide, rom_permutation legal_tablePC1 (by decide) rfl fun _ => rfl⟩,
    ⟨by decide, rom_permutation legal_tablePC2 (by decide) rfl fun _ => rfl⟩⟩

/-- Settles O32: each by the leading bits of its output plane; all 64 bits of a plane are the plane itself. -/
theorem permCommandsComputeTheInternalSteps : Obligations.PermCommandsComputeTheInternalSteps := by
  intro s
  have whole_plane (x : Block) : x.extractLsb' 0 64 = x := BitVec.extractLsb'_eq_self
  refine ⟨_, _, _, _, _, _, rfl, ?_, rfl, ?_, rfl, ?_, rfl, ?_, rfl, ?_, rfl, ?_⟩
  · simpa [whole_plane] using leading_permPlane legal_tableIP (by decide) (by decide) s.pin s.pout
  · simpa [whole_plane] using leading_permPlane legal_tableFP (by decide) (by decide) s.pin s.pout
  · exact leading_permPlane legal_tableE (by decide) (by decide) s.pin s.pout
  · exact leading_permPlane legal_tableP (by decide) (by decide) s.pin s.pout
  · simpa [whole_plane] using leading_permPlane legal_tablePC1 (by decide) (by decide) s.pin s.pout
  · exact leading_permPlane legal_tablePC2 (by decide) (by decide) s.pin s.pout

end Sys2Proof.Machine
end

section
/-! The shift schedule (41_tables.md R166): `i` rounds rotate each half by the sum of the first `i` amounts, and all
sixteen amounts together turn it once around. -/

namespace Sys2Proof.Machine

/-- One circular rotation after another is the rotation by the sum of their amounts. -/
theorem rotateLeft_rotateLeft {w : Nat} (x : BitVec w) (r s : Nat) :
    (x.rotateLeft r).rotateLeft s = x.rotateLeft (r + s) := by
  apply BitVec.eq_of_getMsbD_eq
  intro j hj
  have source_index : (r + (s + j) % w) % w = (r + s + j) % w := by rw [Nat.add_mod_mod, Nat.add_assoc]
  simp [BitVec.getMsbD_rotateLeft, hj, Nat.mod_lt (s + j) (Nat.zero_lt_of_lt hj), source_index]

theorem rotateLeft_zero {w : Nat} (x : BitVec w) : x.rotateLeft 0 = x := by
  apply BitVec.eq_of_getMsbD_eq
  intro j hj
  simp [BitVec.getMsbD_rotateLeft, hj, Nat.mod_eq_of_lt hj]

theorem rotateLeft_width {w : Nat} (x : BitVec w) : x.rotateLeft w = x := by
  rw [← BitVec.rotateLeft_mod_eq_rotateLeft, Nat.mod_self, rotateLeft_zero]

theorem shiftTable_length : shiftTable.length = 16 := rfl

theorem shiftTable_sum : shiftTable.sum = 28 := rfl

/-- "one bit for rounds 1, 2, 9, 16, two bits for all others". -/
theorem shiftAmount_eq {i : Nat} (h1 : 1 ≤ i) (h16 : i ≤ 16) :
    shiftAmount i = if i = 1 ∨ i = 2 ∨ i = 9 ∨ i = 16 then 1 else 2 := by
  interval_cases i <;> rfl

theorem shiftAmount_lt {i : Nat} (h1 : 1 ≤ i) (h16 : i ≤ 16) : shiftAmount i < 28 := by
  rw [shiftAmount_eq h1 h16]
  split <;> decide

theorem sum_take_shiftTable_succ {i : Nat} (h : i < 16) :
    (shiftTable.take (i + 1)).sum = (shiftTable.take i).sum + shiftAmount (i + 1) := by
  rw [List.sum_take_succ _ _ (shiftTable_length ▸ h), shiftAmount, entry, Nat.add_sub_cancel,
    List.getD_eq_getElem _ _ (shiftTable_length ▸ h)]

/-- The halves of round `i` are those of round 0 rotated by the first `i` amounts together. -/
theorem halves_eq_rotateLeft (K : Block) {i : Nat} (h : i ≤ 16) :
    halves K i = ((halves K 0).1.rotateLeft (shiftTable.take i).sum,
      (halves K 0).2.rotateLeft (shiftTable.take i).sum) := by
  induction i with
  | zero => rw [List.take_zero, List.sum_nil, rotateLeft_zero, rotateLeft_zero]
  | succ i ih =>
    have amount : shiftAmount (i + 1) < 28 := shiftAmount_lt (by omega) h
    have round : halves K (i + 1) =
        (rotl28 (halves K i).1 (shiftAmount (i + 1)), rotl28 (halves K i).2 (shiftAmount (i + 1))) := rfl
    rw [round, rotl28_eq_rotateLeft _ amount, rotl28_eq_rotateLeft _ amount, ih (by omega), rotateLeft_rotateLeft,
      rotateLeft_rotateLeft, sum_take_shiftTable_succ h]

/-- Settles O39: the sixteen amounts sum to 28, the width of a half, so the halves of round 16 are those of round 0
turned once around. -/
theorem halvesReturnAfterRound16 : Obligations.HalvesReturnAfterRound16 := by
  refine ⟨shiftTable_length, shiftTable_sum, fun _ => shiftAmount_eq, fun K => ?_⟩
  have once_around : (shiftTable.take 16).sum = 28 := shiftTable_sum
  rw [halves_eq_rotateLeft K (Nat.le_refl 16), once_around, rotateLeft_width, rotateLeft_width]

end Sys2Proof.Machine
end

section
/-! The laws of the tables and the places of an S-box (41_tables.md R160 to R177). -/

namespace Sys2Proof.Machine

theorem tableIP_perm : tableIP.Perm (List.range' 1 64) := by decide

theorem tableFP_perm : tableFP.Perm (List.range' 1 64) := by decide

theorem tableP_perm : tableP.Perm (List.range' 1 32) := by decide

/-- Each row of each S-box is a permutation of 0..15. -/
theorem sboxes_rows_perm :
    ∀ box ∈ sboxes, box.length = 4 ∧ ∀ row ∈ box, row.Perm (List.range 16) := by decide

theorem mem_of_perm_one_to {n : Nat} {T : List Nat} (perm : T.Perm (List.range' 1 n)) (k : Fin n) :
    k.val + 1 ∈ T := by
  rw [perm.mem_iff, List.mem_range'_1]
  omega

/-- IP and FP undo each other (41_tables.md R161). -/
theorem tableFP_tableIP_inverse : ∀ k : Fin 64,
    entry tableFP (entry tableIP (k.val + 1)) = k.val + 1 ∧
      entry tableIP (entry tableFP (k.val + 1)) = k.val + 1 := by decide

/-- E takes the first and the last bit of each group of four twice, the inner two once (41_tables.md R162). -/
theorem tableE_count : ∀ k : Fin 32, tableE.count (k.val + 1) =
    if k.val + 1 ∈ [1, 4, 5, 8, 9, 12, 13, 16, 17, 20, 21, 24, 25, 28, 29, 32] then 2 else 1 := by decide

/-- PC-1 drops the parity bits and takes every other bit once (41_tables.md R164). -/
theorem tablePC1_count : ∀ j : Fin 64,
    tablePC1.count (j.val + 1) = if (j.val + 1) % 8 = 0 then 0 else 1 := by decide

/-- PC-2 drops eight bits and takes every other bit once (41_tables.md R165). -/
theorem tablePC2_count : ∀ j : Fin 56, tablePC2.count (j.val + 1) =
    if j.val + 1 ∈ [9, 18, 22, 25, 35, 38, 43, 54] then 0 else 1 := by decide

/-- Settles O41: the lengths are those of legal tables, the members those of the permuted ranges. -/
theorem tablesMeetTheirLaws : Obligations.TablesMeetTheirLaws := by
  refine ⟨fun k => ?_, legalTable_length legal_tableIP, legalTable_length legal_tableFP,
    legalTable_length legal_tableE, legalTable_length legal_tableP, legalTable_length legal_tablePC1,
    legalTable_length legal_tablePC2, mem_of_perm_one_to tableP_perm, tableE_count, tablePC1_count, tablePC2_count,
    rfl, fun box mem => ?_⟩
  · obtain ⟨fp_ip, ip_fp⟩ := tableFP_tableIP_inverse k
    exact ⟨fp_ip, ip_fp, mem_of_perm_one_to tableIP_perm k, mem_of_perm_one_to tableFP_perm k⟩
  · obtain ⟨four_rows, rows⟩ := sboxes_rows_perm box mem
    refine ⟨four_rows, fun row row_mem => ⟨(rows row row_mem).length_eq, fun v => ?_⟩⟩
    exact (rows row row_mem).mem_iff.mpr (List.mem_range.mpr v.isLt)

theorem toNat_desBit {w : Nat} (x : BitVec w) (j : Nat) : (desBit x j).toNat = x.toNat / 2 ^ (w - j) % 2 := by
  rw [desBit, BitVec.getLsbD, Nat.toNat_testBit]

/-- The row is named by the first and the last bit of the register value. -/
theorem sboxRow_eq (B : BitVec 6) :
    sboxRow B = 2 * (B.extractLsb' 5 1).toNat + (B.extractLsb' 0 1).toNat := by
  simp [sboxRow, toNat_desBit, Nat.shiftRight_eq_div_pow]

/-- The column is the number that the four middle bits spell. -/
theorem sboxCol_eq (B : BitVec 6) : sboxCol B = (B.extractLsb' 1 4).toNat := by
  simp only [sboxCol, toNat_desBit, BitVec.extractLsb'_toNat, Nat.shiftRight_eq_div_pow]
  omega

theorem sboxRow_lt (B : BitVec 6) : sboxRow B < 4 := by
  simp only [sboxRow, toNat_desBit]
  omega

theorem sboxCol_lt (B : BitVec 6) : sboxCol B < 16 := sboxCol_eq B ▸ (B.extractLsb' 1 4).isLt

/-- The row an input selects is one of its box's four. -/
theorem selected_row_perm (j : Fin 8) (B : BitVec 6) :
    ((sboxes.getD j.val []).getD (sboxRow B) []).Perm (List.range 16) := by
  have box_mem : sboxes.getD j.val [] ∈ sboxes := by
    rw [List.getD_eq_getElem _ _ j.isLt]
    exact List.getElem_mem _
  obtain ⟨four_rows, rows⟩ := sboxes_rows_perm _ box_mem
  have row_exists : sboxRow B < (sboxes.getD j.val []).length := four_rows ▸ sboxRow_lt B
  rw [List.getD_eq_getElem _ _ row_exists]
  exact rows _ (List.getElem_mem _)

/-- Settles O42: the input's row and column name a place of the box, and its entry, below 16, is a value of four
bits. -/
theorem sboxesAreIndexedByTheirBits : Obligations.SboxesAreIndexedByTheirBits := by
  intro j B
  have row_perm := selected_row_perm j B
  rw [← sboxRow_eq, ← sboxCol_eq, sboxAt, Nat.add_sub_cancel]
  generalize (sboxes.getD j.val []).getD (sboxRow B) [] = row at row_perm
  have col_exists : sboxCol B < row.length := row_perm.length_eq ▸ sboxCol_lt B
  have four_bits : row[sboxCol B] < 16 := List.mem_range.mp (row_perm.mem_iff.mp (List.getElem_mem col_exists))
  rw [List.getElem?_eq_getElem col_exists, List.getD_eq_getElem _ _ col_exists, BitVec.toNat_ofNat,
    Nat.mod_eq_of_lt four_bits]

end Sys2Proof.Machine
end

section
/-! The key schedule (42_key_schedule.md): any sequences that meet R181 are the model's halves, the schedule is a
function of the output of PC-1, and constant halves are a solution that no rotation moves. -/

namespace Sys2Proof.Machine

theorem exec_keysched (s : State) :
    exec .keysched s = .next ({ s with sk := schedule s.key, ksv := true }.complete none) := rfl

theorem keysched_leaves (s : State) :
    ∃ a, exec .keysched s = .next a ∧ a.sk = schedule s.key ∧ a.ksv = true ∧ a.blk = s.blk :=
  ⟨_, exec_keysched s, rfl, rfl, rfl⟩

theorem getElem_schedule (K : Block) (i : Fin 16) : (schedule K)[i] = subkey K (i.val + 1) :=
  Vector.getElem_ofFn i.isLt

/-! ### The recurrence -/

/-- C₀ is the leading and D₀ the trailing half of the output of PC-1. -/
theorem halves_zero_of_append {K : Block} {c d : KeyHalf} (pc1 : (c ++ d : BitVec 56) = perm 56 tablePC1 K) :
    halves K 0 = (c, d) := by
  rw [halves, splitPC1, ← pc1]
  exact Prod.ext (extract_hi_append c d) (extract_lo_append c d)

section
variable {K : Block} {C D : Nat → KeyHalf} (pc1 : (C 0 ++ D 0 : BitVec 56) = perm 56 tablePC1 K)
  (rounds : ∀ i, 1 ≤ i → i ≤ 16 →
    C i = rotl28 (C (i - 1)) (entry shiftTable i) ∧ D i = rotl28 (D (i - 1)) (entry shiftTable i))
include pc1 rounds

/-- The recurrence has one solution. -/
theorem halves_of_recurrence {i : Nat} (h16 : i ≤ 16) : halves K i = (C i, D i) := by
  induction i with
  | zero => exact halves_zero_of_append pc1
  | succ i ih =>
    obtain ⟨c_round, d_round⟩ := rounds (i + 1) (by omega) h16
    rw [halves, ih (by omega), c_round, d_round]
    rfl

theorem schedule_of_recurrence (i : Fin 16) :
    (schedule K)[i] = perm 48 tablePC2 (C (i.val + 1) ++ D (i.val + 1) : BitVec 56) := by
  rw [getElem_schedule, subkey, halves_of_recurrence pc1 rounds i.isLt]

end

/-- Settles O24: the schedule is that of the one solution of the recurrence, and KEYSCHED writes it. -/
theorem keyschedComputesTheSchedule : Obligations.KeyschedComputesTheSchedule :=
  ⟨by decide, fun s _ _ pc1 rounds => ⟨schedule s.key, schedule_of_recurrence pc1 rounds, exec_keysched s⟩⟩

/-! ### The parity bits -/

/-- A permutation reads no bit but those its table names. -/
theorem perm_congr {w n : Nat} {T : List Nat} {x y : BitVec w}
    (named : ∀ k, 1 ≤ k → k ≤ n → desBit x (entry T k) = desBit y (entry T k)) : perm n T x = perm n T y := by
  apply eq_of_desBit
  intro k h1 hn
  rw [desBit_perm _ _ h1 hn, desBit_perm _ _ h1 hn, named k h1 hn]

theorem schedule_congr {K L : Block} (pc1 : perm 56 tablePC1 K = perm 56 tablePC1 L) : schedule K = schedule L := by
  have halves_eq (i : Nat) : halves K i = halves L i := by
    induction i with
    | zero => rw [halves, halves, splitPC1, splitPC1, pc1]
    | succ i ih => rw [halves, halves, ih]
  simp only [schedule, subkey, halves_eq]

/-- PC-1 names no parity bit (41_tables.md R164). -/
theorem entry_tablePC1_not_parity {k : Nat} (h1 : 1 ≤ k) (h56 : k ≤ 56) : entry tablePC1 k % 8 ≠ 0 := by
  have rows : ∀ k : Fin 56, entry tablePC1 (k.val + 1) % 8 ≠ 0 := by decide
  have row := rows ⟨k - 1, by omega⟩
  rwa [Nat.sub_add_cancel h1] at row

/-- PC-1 reads two keys only where they agree. -/
theorem perm_tablePC1_congr {K L : Block} (agree : ∀ j, 1 ≤ j → j ≤ 64 → j % 8 ≠ 0 → desBit K j = desBit L j) :
    perm 56 tablePC1 K = perm 56 tablePC1 L := by
  refine perm_congr fun k h1 h56 => ?_
  obtain ⟨positive, bounded⟩ := legalTable_bounds legal_tablePC1 h1 h56
  exact agree _ positive bounded (entry_tablePC1_not_parity h1 h56)

/-- Settles O35: PC-1 gives one output for both keys, and the schedule is a function of it. -/
theorem parityBitsAreNeverRead : Obligations.ParityBitsAreNeverRead := fun s _ agree =>
  ⟨_, _, exec_keysched s, exec_keysched _, schedule_congr (perm_tablePC1_congr agree), rfl, rfl⟩

/-! ### Constant halves -/

theorem desBit_fill {w : Nat} (c : Bool) {j : Nat} (h1 : 1 ≤ j) (hw : j ≤ w) : desBit (BitVec.fill w c) j = c := by
  rw [desBit, BitVec.getLsbD_fill]
  simp [show w - j < w by omega]

theorem rotl28_fill (c : Bool) {s : Nat} (hs : s < 28) : rotl28 (BitVec.fill 28 c) s = BitVec.fill 28 c := by
  apply eq_of_desBit
  intro j h1 h28
  rw [desBit_rotl28 _ hs h1 h28, desBit_fill c h1 h28]
  split
  · exact desBit_fill c (by omega) (by omega)
  · exact desBit_fill c (by omega) (by omega)

theorem fill_append_fill_eq {x : BitVec 56} {c d : Bool} (leading : ∀ j, 1 ≤ j → j ≤ 28 → desBit x j = c)
    (trailing : ∀ j, 29 ≤ j → j ≤ 56 → desBit x j = d) : (BitVec.fill 28 c ++ BitVec.fill 28 d : BitVec 56) = x := by
  apply eq_of_desBit
  intro j h1 h56
  rw [desBit_append _ _ h56]
  split
  · next first => rw [leading j h1 first, desBit_fill c h1 first]
  · next second => rw [trailing j (by omega) h56, desBit_fill d (by omega) (by omega)]

/-- No rotation moves a constant half, so the constant sequences meet the recurrence: all subkeys are PC-2 of the
same halves. -/
theorem schedule_of_constant_halves {K : Block} {c d : Bool}
    (pc1 : (BitVec.fill 28 c ++ BitVec.fill 28 d : BitVec 56) = perm 56 tablePC1 K) (i : Fin 16) :
    (schedule K)[i] = perm 48 tablePC2 (BitVec.fill 28 c ++ BitVec.fill 28 d : BitVec 56) :=
  schedule_of_recurrence (C := fun _ => BitVec.fill 28 c) (D := fun _ => BitVec.fill 28 d) pc1
    (fun _ h1 h16 => ⟨(rotl28_fill c (shiftAmount_lt h1 h16)).symm, (rotl28_fill d (shiftAmount_lt h1 h16)).symm⟩) i

/-! ### Keys whose bits are equal, but for the parity bits -/

theorem perm_fill {w n : Nat} {T : List Nat} (legal : legalTable n w T = true) (c : Bool) :
    perm n T (BitVec.fill w c) = BitVec.fill n c := by
  apply eq_of_desBit
  intro k h1 hn
  obtain ⟨positive, bounded⟩ := legalTable_bounds legal h1 hn
  rw [desBit_perm _ _ h1 hn, desBit_fill c positive bounded, desBit_fill c h1 hn]

/-- Every bit of the key but its parity bits is `c`. -/
def UniformKey (K : Block) (c : Bool) : Prop := ∀ j, j < 65 → 1 ≤ j → j % 8 ≠ 0 → desBit K j = c

theorem uniform_00 : UniformKey 0x0000000000000000 false := by unfold UniformKey; decide

theorem uniform_01 : UniformKey 0x0101010101010101 false := by unfold UniformKey; decide

theorem uniform_FE : UniformKey 0xFEFEFEFEFEFEFEFE true := by unfold UniformKey; decide

theorem schedule_of_uniform_key {K : Block} {c : Bool} (uniform : UniformKey K c) (i : Fin 16) :
    (schedule K)[i] = BitVec.fill 48 c := by
  have pc1 : perm 56 tablePC1 K = BitVec.fill 56 c := by
    rw [← perm_fill legal_tablePC1 c]
    refine perm_tablePC1_congr fun j h1 h64 not_parity => ?_
    rw [uniform j (by omega) h1 not_parity, desBit_fill c h1 h64]
  have whole : (BitVec.fill 28 c ++ BitVec.fill 28 c : BitVec 56) = BitVec.fill 56 c :=
    fill_append_fill_eq (fun _ h1 h28 => desBit_fill c h1 (by omega)) fun _ h29 h56 => desBit_fill c (by omega) h56
  rw [schedule_of_constant_halves (whole.trans pc1.symm) i, whole, perm_fill legal_tablePC2]

theorem keysched_of_uniform_key (s : State) {K : Block} {c : Bool} (uniform : UniformKey K c) (i : Fin 16) :
    ∃ a, exec .keysched { s with key := K } = .next a ∧ a.sk[i] = BitVec.fill 48 c := by
  obtain ⟨a, executed, sk_eq, -⟩ := keysched_leaves { s with key := K }
  refine ⟨a, executed, ?_⟩
  rw [sk_eq]
  exact schedule_of_uniform_key uniform i

end Sys2Proof.Machine
end

section
/-! DESCORE undone by the reversed round keys (43_feistel_cipher.md R206 to R210), and ENC under a schedule that reads
the same in both orders. -/

namespace Sys2Proof.Machine

/-- The permutations by two tables of a block cancel when the entries do. -/
theorem perm_perm_of_inverse {T U : List Nat} (legal : legalTable 64 64 U = true)
    (inverse : ∀ k : Fin 64, entry T (entry U (k.val + 1)) = k.val + 1) (x : Block) :
    perm 64 U (perm 64 T x) = x := by
  apply eq_of_desBit
  intro j h1 h64
  have cancel := inverse ⟨j - 1, by omega⟩
  rw [Nat.sub_add_cancel h1] at cancel
  rw [perm_perm _ _ _ h1 h64 (legalTable_bounds legal h1 h64), cancel]

theorem tableIP_after_tableFP (x : Block) : perm 64 tableIP (perm 64 tableFP x) = x :=
  perm_perm_of_inverse legal_tableIP (fun k => (tableFP_tableIP_inverse k).1) x

theorem tableFP_after_tableIP (x : Block) : perm 64 tableFP (perm 64 tableIP x) = x :=
  perm_perm_of_inverse legal_tableFP (fun k => (tableFP_tableIP_inverse k).2) x

theorem splitIP_joinFP (lr : Half × Half) : splitIP (joinFP lr) = lr.swap := by
  rw [splitIP, joinFP, tableIP_after_tableFP]
  exact Prod.ext (extract_hi_append lr.2 lr.1) (extract_lo_append lr.2 lr.1)

theorem joinFP_swap_splitIP (B : Block) : joinFP (splitIP B).swap = B := by
  have halves_of_block (x : Block) : x.extractLsb' 32 32 ++ x.extractLsb' 0 32 = x :=
    BitVec.extractLsb'_append_extractLsb'
  rw [joinFP, splitIP, Prod.swap, halves_of_block, tableFP_after_tableIP]

theorem roundsFrom_append (ks ls : List Subkey) (lr : Half × Half) :
    roundsFrom (ks ++ ls) lr = roundsFrom ls (roundsFrom ks lr) := by
  induction ks generalizing lr with
  | nil => rfl
  | cons k ks ih => exact ih _

/-- A round undoes itself on the swapped halves: its f is of the half that the round only moved. -/
theorem roundsFrom_reverse_swap (ks : List Subkey) (lr : Half × Half) :
    roundsFrom ks.reverse (roundsFrom ks lr).swap = lr.swap := by
  induction ks generalizing lr with
  | nil => rfl
  | cons k ks ih =>
    have round : roundsFrom (k :: ks) lr = roundsFrom ks (lr.2, lr.1 ^^^ feistel lr.2 k) := rfl
    rw [List.reverse_cons, roundsFrom_append, round, ih]
    simp [roundsFrom, Prod.swap]

/-- R210, on blocks: whatever the round keys. -/
theorem descore_reverse_descore (B : Block) (ks : List Subkey) : descore (descore B ks) ks.reverse = B := by
  rw [descore, descore, splitIP_joinFP, roundsFrom_reverse_swap, joinFP_swap_splitIP]

theorem exec_enc_of_ksv {s : State} (ksv : s.ksv = true) :
    exec .enc s = .next ({ s with blk := descore s.blk s.sk.toList }.complete none) := if_pos ksv

theorem toList_reverse_of_equal {v : Vector Subkey 16} (equal : ∀ i : Fin 16, v[i] = v[0]) :
    v.toList.reverse = v.toList := by
  have all_first : v = Vector.replicate 16 v[0] :=
    Vector.ext fun i hi => (equal ⟨i, hi⟩).trans (Vector.getElem_replicate hi).symm
  rw [all_first, Vector.toList_replicate, List.reverse_replicate]

theorem exec_dec_eq_exec_enc {s : State} (palindrome : s.sk.toList.reverse = s.sk.toList) :
    exec .dec s = exec .enc s := by
  rw [exec, exec, execDec, execEnc, palindrome]

/-- R210 for equal subkeys: DEC is ENC, and ENC twice restores BLK. -/
theorem enc_dec_of_equal_subkeys {s : State} (ksv : s.ksv = true) (equal : ∀ i : Fin 16, s.sk[i] = s.sk[0]) :
    ∃ t u, exec .enc s = .next t ∧ exec .dec s = .next t ∧ exec .enc t = .next u ∧ u.blk = s.blk := by
  have palindrome := toList_reverse_of_equal equal
  have restored := descore_reverse_descore s.blk s.sk.toList
  rw [palindrome] at restored
  have enc := exec_enc_of_ksv ksv
  exact ⟨_, _, enc, (exec_dec_eq_exec_enc palindrome).trans enc, exec_enc_of_ksv ksv, restored⟩

/-- Settles O36: constant halves make the sixteen subkeys equal, so ENC and DEC take them in one order; the three keys
are uniform but for their parity bits, which gives subkeys of zeros or of ones. -/
theorem constantHalvesGiveConstantSchedules : Obligations.ConstantHalvesGiveConstantSchedules := by
  refine ⟨fun s c d leading trailing => ?_, fun s i => ?_⟩
  · have subkeys := schedule_of_constant_halves (fill_append_fill_eq leading trailing)
    obtain ⟨a, executed, sk_eq, ksv_eq, blk_eq⟩ := keysched_leaves s
    have equal (i : Fin 16) : a.sk[i] = a.sk[0] := by
      rw [sk_eq]
      exact (subkeys i).trans (subkeys 0).symm
    obtain ⟨t, u, cipher⟩ := enc_dec_of_equal_subkeys ksv_eq equal
    exact ⟨a, t, u, executed, equal, blk_eq ▸ cipher⟩
  · obtain ⟨a, executed_a, zeros_a⟩ := keysched_of_uniform_key s uniform_01 i
    obtain ⟨b, executed_b, zeros_b⟩ := keysched_of_uniform_key s uniform_00 i
    obtain ⟨c, executed_c, ones_c⟩ := keysched_of_uniform_key s uniform_FE i
    exact ⟨a, b, c, executed_a, zeros_a, executed_b, zeros_b, executed_c, ones_c⟩

end Sys2Proof.Machine
end

section
/-! The round function of the Feistel network (43_feistel_cipher.md R200 to R205): the groups of its substitution, and
what a change of both its arguments leaves as it is. -/

namespace Sys2Proof.Machine

/-- Settles O25: the substitution of the mixed key, whose nibble `j` is the output of the S-box of that group. -/
theorem ffuncEvaluatesTheRoundFunction : Obligations.FfuncEvaluatesTheRoundFunction := by
  refine ⟨by decide, fun s => ⟨substitute (mixKey s.fR s.fK), fun j => ?_, rfl⟩⟩
  have nibble := substitute_group (mixKey s.fR s.fK) (j := j.val + 1) (by omega) (by omega)
  rwa [group, show 32 - 4 * (j.val + 1) = 28 - 4 * j.val by omega,
    show 48 - 6 * (j.val + 1) = 42 - 6 * j.val by omega] at nibble

/-- f reads its arguments only through the mixed key, so it is of E(R) ⊕ K alone (43_feistel_cipher.md R203). -/
theorem feistel_congr {R S : Half} {K L : Subkey} (mixed : mixKey R K = mixKey S L) : feistel R K = feistel S L := by
  rw [feistel, feistel, mixed]

/-- What is added to the half is taken from the key again: E distributes over exclusive or. -/
theorem mixKey_xor_expansion (R r : Half) (K : Subkey) : mixKey (R ^^^ r) (K ^^^ perm 48 tableE r) = mixKey R K := by
  rw [mixKey, mixKey, perm_xor, BitVec.xor_comm K, BitVec.xor_assoc, ← BitVec.xor_assoc (perm 48 tableE r),
    BitVec.xor_self, BitVec.zero_xor]

theorem mixKey_not (R : Half) (K : Subkey) : mixKey (~~~R) (~~~K) = mixKey R K := by
  rw [mixKey, mixKey, perm_not tableE R fun _ => legalTable_bounds legal_tableE, ← BitVec.not_xor_left,
    ← BitVec.not_xor_right, BitVec.not_not]

/-- The complement of both arguments cancels in the exclusive or. -/
theorem feistel_not (R : Half) (K : Subkey) : feistel (~~~R) (~~~K) = feistel R K := feistel_congr (mixKey_not R K)

theorem feistel_zeros : feistel 0 0 = 0xD8D8DBBC := by decide +kernel

theorem feistel_ones_zeros : feistel 0xFFFFFFFF 0 = 0x38DBF9CB := by decide +kernel

/-- Settles O37: f is a function of the mixed key; of the four values, two are evaluated and the other two are theirs
at the complemented arguments. -/
theorem roundFunctionDependsOnTheXor : Obligations.RoundFunctionDependsOnTheXor :=
  ⟨fun R r K => feistel_congr (mixKey_xor_expansion R r K).symm, feistel_zeros,
    (feistel_not 0 0).trans feistel_zeros, feistel_ones_zeros,
    (feistel_not 0xFFFFFFFF 0).trans feistel_ones_zeros⟩

end Sys2Proof.Machine
end

section
/-! ENC and DEC (43_feistel_cipher.md R206 to R210): any sequences that meet the recurrence of R206 are the rounds of
the model, and the two commands undo each other. -/

namespace Sys2Proof.Machine

/-- L₀ is the leading and R₀ the trailing half of the output of IP. -/
theorem splitIP_of_append {B : Block} {l r : Half} (ip : (l ++ r : Block) = perm 64 tableIP B) :
    splitIP B = (l, r) := by
  rw [splitIP, ← ip]
  exact Prod.ext (extract_hi_append l r) (extract_lo_append l r)

/-- The recurrence has one solution: the rounds over the list of its keys. -/
theorem roundsFrom_of_recurrence (ks : List Subkey) {L R : Nat → Half}
    (rounds : ∀ i (h : i < ks.length), L (i + 1) = R i ∧ R (i + 1) = L i ^^^ feistel (R i) ks[i]) :
    roundsFrom ks (L 0, R 0) = (L ks.length, R ks.length) := by
  induction ks generalizing L R with
  | nil => rfl
  | cons k ks ih =>
    obtain ⟨l_first, r_first⟩ := rounds 0 (Nat.zero_lt_succ _)
    have rest := ih (L := fun i => L (i + 1)) (R := fun i => R (i + 1)) fun i h => rounds (i + 1) (Nat.succ_lt_succ h)
    rwa [l_first, r_first] at rest

theorem descore_of_recurrence {B : Block} {ks : List Subkey} {L R : Nat → Half} (sixteen : ks.length = 16)
    (ip : (L 0 ++ R 0 : Block) = perm 64 tableIP B)
    (rounds : ∀ i (h : i < ks.length), L (i + 1) = R i ∧ R (i + 1) = L i ^^^ feistel (R i) ks[i]) :
    descore B ks = perm 64 tableFP (R 16 ++ L 16 : Block) := by
  rw [descore, splitIP_of_append ip, roundsFrom_of_recurrence ks rounds, sixteen, joinFP]

theorem exec_dec_of_ksv {s : State} (ksv : s.ksv = true) :
    exec .dec s = .next ({ s with blk := descore s.blk s.sk.toList.reverse }.complete none) := if_pos ksv

theorem exec_enc_of_no_ksv {s : State} (no_ksv : s.ksv = false) : exec .enc s = .next (s.raise .noSchedule) :=
  if_neg (ne_true_of_eq_false no_ksv)

theorem exec_dec_of_no_ksv {s : State} (no_ksv : s.ksv = false) : exec .dec s = .next (s.raise .noSchedule) :=
  if_neg (ne_true_of_eq_false no_ksv)

/-- Settles O26: round `i` has the key at place `i` of the schedule's list. -/
theorem encRunsSixteenRounds : Obligations.EncRunsSixteenRounds := by
  refine ⟨by decide, fun s L R ksv ip rounds => ?_, fun s no_ksv => exec_enc_of_no_ksv no_ksv⟩
  have cipher : descore s.blk s.sk.toList = perm 64 tableFP (R 16 ++ L 16 : Block) := by
    refine descore_of_recurrence Vector.length_toList ip fun i h => ?_
    rw [Vector.length_toList] at h
    exact rounds ⟨i, h⟩
  rw [exec_enc_of_ksv ksv, cipher]
  rfl

/-- Settles O27: the reversed list has at place `i` the schedule's key 15 − i. -/
theorem decRunsTheRoundsInReverse : Obligations.DecRunsTheRoundsInReverse := by
  refine ⟨by decide, fun s L R ksv ip rounds => ?_, fun s no_ksv => exec_dec_of_no_ksv no_ksv⟩
  have cipher : descore s.blk s.sk.toList.reverse = perm 64 tableFP (R 16 ++ L 16 : Block) := by
    refine descore_of_recurrence (by simp) ip fun i h => ?_
    rw [List.length_reverse, Vector.length_toList] at h
    simpa using rounds ⟨i, h⟩
  rw [exec_dec_of_ksv ksv, cipher]
  rfl

/-- Settles O33: DESCORE is undone by the reversed keys, and ENC's keys are DEC's reversed; equal subkeys read the same
in both orders. -/
theorem decUndoesEnc : Obligations.DecUndoesEnc := by
  intro s ksv
  have enc_undoes_dec := descore_reverse_descore s.blk s.sk.toList.reverse
  rw [List.reverse_reverse] at enc_undoes_dec
  refine ⟨⟨_, _, exec_enc_of_ksv ksv, exec_dec_of_ksv ksv, descore_reverse_descore s.blk s.sk.toList⟩,
    ⟨_, _, exec_dec_of_ksv ksv, exec_enc_of_ksv ksv, enc_undoes_dec⟩, fun equal => ?_⟩
  obtain ⟨t, u, enc, dec, enc_twice, restored⟩ := enc_dec_of_equal_subkeys ksv equal
  exact ⟨enc.trans dec.symm, t, u, enc, enc_twice, restored⟩

end Sys2Proof.Machine
end

section
/-! The complementation property (43_feistel_cipher.md R211): the complement passes through the key schedule, f drops
it, and each round hands it on. -/

namespace Sys2Proof.Machine

theorem rotl28_not (x : KeyHalf) {s : Nat} (hs : s < 28) : rotl28 (~~~x) s = ~~~rotl28 x s := by
  apply eq_of_desBit
  intro j h1 h28
  rw [desBit_rotl28 _ hs h1 h28, desBit_not _ h1 h28, desBit_rotl28 _ hs h1 h28,
    desBit_not _ (by split <;> omega) (by split <;> omega)]

/-- The complements of the key's halves meet the recurrence of the complemented key. -/
theorem schedule_not (K : Block) (i : Fin 16) : (schedule (~~~K))[i] = ~~~(schedule K)[i] := by
  have pc1 : (~~~(halves K 0).1 ++ ~~~(halves K 0).2 : BitVec 56) = perm 56 tablePC1 (~~~K) := by
    rw [← BitVec.not_append, perm_not tablePC1 K fun _ => legalTable_bounds legal_tablePC1, halves, splitPC1]
    exact congrArg (~~~·) BitVec.extractLsb'_append_extractLsb'
  have rounds (i : Nat) (h1 : 1 ≤ i) (h16 : i ≤ 16) :
      ~~~(halves K i).1 = rotl28 (~~~(halves K (i - 1)).1) (entry shiftTable i) ∧
      ~~~(halves K i).2 = rotl28 (~~~(halves K (i - 1)).2) (entry shiftTable i) := by
    obtain ⟨i, rfl⟩ := Nat.exists_eq_add_of_le' h1
    exact ⟨(rotl28_not _ (shiftAmount_lt h1 h16)).symm, (rotl28_not _ (shiftAmount_lt h1 h16)).symm⟩
  rw [schedule_of_recurrence (C := fun i => ~~~(halves K i).1) (D := fun i => ~~~(halves K i).2) pc1 rounds,
    ← BitVec.not_append, perm_not tablePC2 _ fun _ => legalTable_bounds legal_tablePC2, getElem_schedule, subkey]

theorem schedule_not_toList (K : Block) : (schedule (~~~K)).toList = (schedule K).toList.map (~~~·) := by
  rw [← Vector.toList_map]
  refine congrArg Vector.toList (Vector.ext fun i hi => ?_)
  rw [Vector.getElem_map]
  exact schedule_not K ⟨i, hi⟩

theorem roundsFrom_not (ks : List Subkey) (l r : Half) :
    roundsFrom (ks.map (~~~·)) (~~~l, ~~~r) = (~~~(roundsFrom ks (l, r)).1, ~~~(roundsFrom ks (l, r)).2) := by
  induction ks generalizing l r with
  | nil => rfl
  | cons k ks ih =>
    rw [List.map_cons, roundsFrom, feistel_not, ← BitVec.not_xor_left, ih, roundsFrom]

theorem splitIP_not (B : Block) : splitIP (~~~B) = (~~~(splitIP B).1, ~~~(splitIP B).2) := by
  refine splitIP_of_append ?_
  rw [← BitVec.not_append, perm_not tableIP B fun _ => legalTable_bounds legal_tableIP, splitIP]
  exact congrArg (~~~·) BitVec.extractLsb'_append_extractLsb'

theorem joinFP_not (l r : Half) : joinFP (~~~l, ~~~r) = ~~~joinFP (l, r) := by
  rw [joinFP, joinFP, ← BitVec.not_append, perm_not tableFP _ fun _ => legalTable_bounds legal_tableFP]

theorem descore_not (B : Block) (ks : List Subkey) : descore (~~~B) (ks.map (~~~·)) = ~~~descore B ks := by
  rw [descore, splitIP_not, roundsFrom_not, joinFP_not, descore]

/-- Settles O34: the schedule of the complemented key is the complement, and DESCORE hands the complement on. -/
theorem complementedKeyAndBlock : Obligations.ComplementedKeyAndBlock := by
  intro s
  refine ⟨_, _, _, _, exec_keysched s, exec_enc_of_ksv rfl, exec_keysched _, exec_enc_of_ksv rfl, ?_⟩
  change descore (~~~s.blk) (schedule (~~~s.key)).toList = ~~~descore s.blk (schedule s.key).toList
  rw [schedule_not_toList, descore_not]

end Sys2Proof.Machine
end

section
/-! KEYPREP (44_key_preparation.md R230): the place of the first NUL, and the bytes of the key on its two sides. -/

namespace Sys2Proof.Machine

/-- The search for the least NUL finds one, or none of the eight bytes is NUL. -/
theorem firstNul_cases (text : Block) :
    (firstNul text = 8 ∨ firstNul text < 8 ∧ byteOf text (firstNul text) = 0) ∧
      ∀ j < firstNul text, byteOf text j ≠ 0 := by
  rw [firstNul]
  cases found : (List.range 8).find? fun k => byteOf text k == 0 with
  | none => exact ⟨.inl rfl, by simpa using found⟩
  | some m =>
    rw [List.find?_range_eq_some] at found
    obtain ⟨nul, in_range, before⟩ := found
    exact ⟨.inr ⟨List.mem_range.mp in_range, by simpa using nul⟩, by simpa using before⟩

theorem firstNul_le (text : Block) : firstNul text ≤ 8 := by
  obtain ⟨no_nul | ⟨below, -⟩, -⟩ := firstNul_cases text
  · exact no_nul.le
  · exact below.le

theorem byteOf_ne_zero_of_lt_firstNul {text : Block} {j : Nat} (before : j < firstNul text) : byteOf text j ≠ 0 :=
  (firstNul_cases text).2 j before

theorem byteOf_firstNul {text : Block} (found : firstNul text < 8) : byteOf text (firstNul text) = 0 := by
  obtain ⟨no_nul | ⟨-, nul⟩, -⟩ := firstNul_cases text
  · exact absurd no_nul found.ne
  · exact nul

theorem byteOf_keyOfText (text : Block) {j : Nat} (hj : j < 8) :
    byteOf (keyOfText text) j = if j < firstNul text then byteOf text j else 0 := byteOf_ofBytes _ hj

/-- Settles O23: m is the place of the first NUL, and the key is that of the text. -/
theorem keyprepCopiesUpToTheFirstNul : Obligations.KeyprepCopiesUpToTheFirstNul :=
  ⟨by decide, fun s => ⟨firstNul s.ktext, keyOfText s.ktext, firstNul_le _,
    fun _ before => byteOf_ne_zero_of_lt_firstNul before, byteOf_firstNul, fun _ hj => byteOf_keyOfText _ hj, rfl⟩⟩

end Sys2Proof.Machine
end

section
/-! Command control (45_control.md): acceptance, the engine's step on a pending word, and what a completion and an error
report leave. -/

namespace Sys2Proof.Machine

/-- Settles O47: the register at offset 0 is CMD, whose write accepts and whose read is 0. -/
theorem cmdWriteAcceptsEveryWord : Obligations.CmdWriteAcceptsEveryWord :=
  fun s c => ⟨fun idle => hostWrite_off s .cmd c idle nofun, hostRead_off s .cmd⟩

/-- Settles O22: NOP's meaning is the completion without an error. -/
theorem nopOnlyCompletes : Obligations.NopOnlyCompletes := ⟨by decide, fun _ => rfl⟩

theorem runWord_of_decode {s : State} {c : Word} {i : Instr} (decoded : decode c = some i) :
    s.runWord c = exec i s.takePending := by
  simp only [State.runWord, decoded]

theorem runWord_of_illegal {s : State} {c : Word} (illegal : decode c = none) :
    s.runWord c = .next (s.takePending.raise .illegalCmd) := by
  simp only [State.runWord, illegal]

/-- The engine's turn, given by the order of events, with a word pending. -/
theorem step_engine {s : State} {c : Word} {ts : List Turn} (pending : s.pending = some c)
    (turn : s.turns = .engine :: ts) : step s = (s.withTurns ts).runWord c := by
  simp only [step, turn]
  exact engineTurn_of_pending pending

/-- With no event given, a pending word is the engine's to run. -/
theorem step_of_no_turns {s : State} {c : Word} (pending : s.pending = some c) (turn : s.turns = []) :
    step s = s.runWord c := by
  simp only [step, turn, pending, Option.isSome_some, if_true]
  exact engineTurn_of_pending pending

/-- Settles O8: both turns run the pending word, and a word that decodes runs as its instruction. -/
theorem stepRunsTheDecodedCommand : Obligations.StepRunsTheDecodedCommand :=
  fun _ _ _ pending decoded =>
    ⟨fun _ turn => (step_engine pending turn).trans (runWord_of_decode decoded),
      fun turn => (step_of_no_turns pending turn).trans (runWord_of_decode decoded)⟩

/-- Settles O9: the placed word is pending with the engine's turn first, and the turns to come are those of before. -/
theorem placedWordRunsNext : Obligations.PlacedWordRunsNext :=
  fun s w _ decoded => (step_engine (s.withFetchWord_pending 32 w) (s.withFetchWord_turns 32 w)).trans
    (runWord_of_decode decoded)

/-- `t` is how a command that starts in `s` ends: idle and done, with no code unless an error is reported, and with
STATUS alone written if one is (45_control.md R242, R243). -/
def EndsCommand (s t : State) : Prop :=
  t.busy = false ∧ t.done = true ∧ (t.err = false → t.ecode = 0) ∧
    (t.err = true → t = { s with busy := false, done := true, err := true, ecode := t.ecode })

theorem endsCommand_raise (s : State) (e : ErrorCode) : EndsCommand s (s.raise e) :=
  ⟨rfl, rfl, nofun, fun _ => rfl⟩

theorem endsCommand_complete_none (s u : State) : EndsCommand s (u.complete none) :=
  ⟨rfl, rfl, fun _ => rfl, nofun⟩

/-- Every instruction ends its command, and none takes or accepts one. -/
theorem exec_ends (i : Instr) (s : State) : ∃ t, exec i s = .next t ∧ t.pending = s.pending ∧ EndsCommand s t := by
  rcases exec_cases i s with ⟨_, _, _, _, _, _, _, _, completes, -⟩ | ⟨e, reports, -⟩
  · exact ⟨_, completes, rfl, endsCommand_complete_none s _⟩
  · exact ⟨_, reports, rfl, endsCommand_raise s e⟩

/-- Every pending word, legal or not, is taken, and its command ends. -/
theorem runWord_ends (s : State) (c : Word) :
    ∃ t, s.runWord c = .next t ∧ t.pending = none ∧ EndsCommand s.takePending t := by
  rcases runWord_cases s c with ⟨-, illegal⟩ | ⟨i, -, executes⟩
  · exact ⟨_, illegal, rfl, endsCommand_raise s.takePending .illegalCmd⟩
  · rw [executes]
    exact exec_ends i s.takePending

/-- Settles O19: an instruction's end, and that of a pending word. -/
theorem errorsWriteOnlyStatus : Obligations.ErrorsWriteOnlyStatus := by
  constructor
  · intro i s t executed
    obtain ⟨_, answer, -, ends⟩ := exec_ends i s
    cases answer.symm.trans executed
    exact ends
  · intro s t c pending turn
    rw [engineTurn_of_pending pending] at turn
    obtain ⟨_, answer, taken, ends⟩ := runWord_ends s c
    cases answer.symm.trans turn
    exact ⟨taken, ends⟩

end Sys2Proof.Machine
end

section
/-! A pending command among the host's turns (20_memory.md R88, 45_control.md R245, R246, R248): no host turn discards
it, and the host's turns before its step change nothing that it reads. -/

namespace Sys2Proof.Machine

/-! ### The command completes -/

/-- No register's write discards a pending command; the write of CMD could only replace it. -/
theorem writeReg_pending_isSome {s : State} (r : Reg) (v : Word) (pending : s.pending.isSome) :
    (s.writeReg r v).pending.isSome := by
  by_cases cmd : r = .cmd
  · subst cmd
    rfl
  · obtain ⟨-, -, -, -, pending_kept⟩ := writeReg_status s r v cmd
    rw [pending_kept]
    exact pending

/-- A host write neither discards a pending command nor changes the order of events. -/
theorem hostWrite_pending_turns {s : State} (off : Nat) (w : Width) (v : Word) (pending : s.pending.isSome) :
    (s.hostWrite off w v).1.pending.isSome ∧ (s.hostWrite off w v).1.turns = s.turns := by
  rcases hostWrite_cases s off w v with ⟨-, h⟩ | ⟨-, h⟩ | ⟨_, -, -, -, h⟩ | ⟨r, -, -, -, h⟩
  · rw [h]
    exact ⟨pending, rfl⟩
  · rw [h, writeStatus_eq]
    exact ⟨pending, rfl⟩
  · rw [h]
    exact ⟨pending, rfl⟩
  · obtain ⟨-, -, -, -, -, -, -, -, turns_kept⟩ := writeReg_frame s r v
    rw [h]
    exact ⟨writeReg_pending_isSome r v pending, turns_kept⟩

theorem hostTurn_pending_turns {s : State} (pending : s.pending.isSome) :
    s.hostTurn.pending.isSome ∧ s.hostTurn.turns = s.turns := by
  rcases hostTurn_write_or_advance s with ⟨off, w, v, _, _, h⟩ | ⟨_, _, h⟩
  · rw [h]
    exact hostWrite_pending_turns off w v pending
  · rw [h]
    exact ⟨pending, rfl⟩

/-- A step that runs a word is a run of one step to the end of its command. -/
theorem completes_of_step {s u : State} {c : Word} (ran : step s = u.runWord c) :
    ∃ t, runSteps 1 s = .next t ∧ t.pending = none ∧ t.busy = false ∧ t.done = true := by
  obtain ⟨t, answer, taken, idle, done, -⟩ := runWord_ends u c
  exact ⟨t, runSteps_succ (ran.trans answer), taken, idle, done⟩

/-- Settles O13: by induction on the turns to come. The engine's turn, or the end of the turns, runs the pending word,
and a host's turn leaves a word pending with one turn less to come. -/
theorem pendingCommandCompletes : Obligations.PendingCommandCompletes := by
  intro s c pending no_reset
  generalize turn : s.turns = ts at no_reset ⊢
  induction ts generalizing s c with
  | nil =>
    obtain ⟨t, completes⟩ := completes_of_step (step_of_no_turns pending turn)
    exact ⟨1, t, by simp, completes⟩
  | cons event ts ih =>
    obtain ⟨not_reset, no_reset_left⟩ := List.ne_and_not_mem_of_not_mem_cons no_reset
    cases event with
    | reset => exact absurd rfl not_reset
    | engine =>
      obtain ⟨t, completes⟩ := completes_of_step (step_engine pending turn)
      exact ⟨1, t, by simp, completes⟩
    | host =>
      obtain ⟨still_pending, turns_left⟩ := hostTurn_pending_turns (s := s.withTurns ts)
        (Option.isSome_of_eq_some pending)
      obtain ⟨d, pending'⟩ := Option.isSome_iff_exists.mp still_pending
      obtain ⟨k, t, bound, run, ended⟩ := ih _ d pending' turns_left no_reset_left
      exact ⟨k + 1, t, by simpa using bound, (runSteps_succ (step_host turn)).trans run, ended⟩

/-! ### Its result -/

/-- The state but for what the turns of the host can change while a command waits: OVR, and the host's own position and
last response. -/
def State.withHostFields (s : State) (o : Bool) (pc : Nat) (r : Option Response) : State :=
  { s with ovr := o, hostPc := pc, response := r }

theorem hostTurn_busy {s : State} (busy : s.busy = true) : ∃ o pc r, s.hostTurn = s.withHostFields o pc r := by
  rcases hostTurn_write_or_advance s with ⟨off, w, v, pc, r, h⟩ | ⟨pc, r, h⟩
  · rw [hostWrite_busy s off w v busy] at h
    exact ⟨_, pc, r, h⟩
  · exact ⟨s.ovr, pc, r, h⟩

/-- Settles O55: the fields of the host's turn are the only ones it can change. -/
theorem busyHostTurnsKeepEveryOperand : Obligations.BusyHostTurnsKeepEveryOperand := by
  intro s busy
  obtain ⟨o, pc, r, turn⟩ := hostTurn_busy busy
  rw [turn]
  rfl

/-- Any number of host turns while the engine is busy. -/
theorem runSteps_busy_host (n m : Nat) (ts : List Turn) {s : State} (busy : s.busy = true) :
    ∃ o pc r, runSteps (m + n) (s.withTurns (List.replicate n .host ++ ts)) =
      runSteps m ((s.withTurns ts).withHostFields o pc r) := by
  induction n generalizing s with
  | zero => exact ⟨s.ovr, s.hostPc, s.response, rfl⟩
  | succ n ih =>
    have stepped := step_host (s := s.withTurns (List.replicate (n + 1) .host ++ ts)) rfl
    obtain ⟨o, pc, r, turn⟩ := hostTurn_busy (s := s.withTurns (List.replicate n .host ++ ts)) busy
    obtain ⟨o', pc', r', rest⟩ := ih (s := s.withHostFields o pc r) busy
    exact ⟨o', pc', r', (runSteps_succ (stepped.trans (congrArg _ turn))).trans rest⟩

/-- A command neither reads nor writes the fields that the host's turns can change. -/
theorem exec_withHostFields {i : Instr} {s t : State} (o : Bool) (pc : Nat) (r : Option Response)
    (executed : exec i s = .next t) : exec i (s.withHostFields o pc r) = .next (t.withHostFields o pc r) := by
  have checked {check : Bool} {a b : State} := next_ite_map (check := check) (a := a) (b := b) (t := t)
    fun u => u.withHostFields o pc r
  cases i with
  | enc | dec | perm => exact checked executed
  | getbit p | putbit p => cases p <;> exact checked executed
  | _ =>
    cases executed
    rfl

theorem runWord_withHostFields {s t : State} {c : Word} (o : Bool) (pc : Nat) (r : Option Response)
    (ran : s.runWord c = .next t) : (s.withHostFields o pc r).runWord c = .next (t.withHostFields o pc r) := by
  rcases runWord_cases s c with ⟨illegal, reports⟩ | ⟨i, decoded, executes⟩
  · cases reports.symm.trans ran
    exact runWord_of_illegal illegal
  · exact (runWord_of_decode decoded).trans (exec_withHostFields o pc r (executes.symm.trans ran))

/-- Settles O14: the host's turns change no field that the engine's turn reads, and its own step carries their changes
along. -/
theorem latencyDoesNotChangeTheResult : Obligations.LatencyDoesNotChangeTheResult := by
  intro s c n rest busy pending
  obtain ⟨u, ran, -⟩ := runWord_ends (s.withTurns rest) c
  obtain ⟨o, pc, r, waited⟩ := runSteps_busy_host n 1 (.engine :: rest) busy
  have at_once : step (s.withTurns (.engine :: rest)) = .next u :=
    (step_engine (s := s.withTurns (.engine :: rest)) pending rfl).trans ran
  have at_last : step ((s.withTurns (.engine :: rest)).withHostFields o pc r) = .next (u.withHostFields o pc r) :=
    (step_engine (s := (s.withTurns (.engine :: rest)).withHostFields o pc r) pending rfl).trans
      (runWord_withHostFields o pc r ran)
  rw [Nat.add_comm 1 n] at waited
  exact ⟨_, u, waited.trans (runSteps_succ at_last), at_once, rfl⟩

end Sys2Proof.Machine
end

section
/-! The exceptions (60_exceptions.md): the error a command reports and its cause (R261 to R266), the two ways OVR
changes (R268), and that no state stops the machine (R260). -/

namespace Sys2Proof.Machine

/-! ### Error reports -/

/-- The error that the engine reports at the end of a pending word's step, given what the word decodes to
(60_exceptions.md R262 to R266). -/
def State.report (s : State) : Option Instr → Option ErrorCode
  | none => some .illegalCmd
  | some (.getbit _ n) | some (.putbit _ n _) => if legalBit n then none else some .bitRange
  | some (.perm n) => if s.permLegal n then none else some .permRange
  | some .enc | some .dec => if s.ksv then none else some .noSchedule
  | some _ => none

/-- A command's check, and the completion that each of its two outcomes ends in. -/
theorem next_ite_complete {check : Bool} {e : ErrorCode} (u s : State) :
    ∃ t : State, (if check then .next (u.complete none) else .next (s.raise e) : Result) =
      .next (t.complete (if check then none else some e)) := by
  cases check
  · exact ⟨s, rfl⟩
  · exact ⟨u, rfl⟩

theorem exec_completes_with_report (i : Instr) (s : State) :
    ∃ u : State, exec i s = .next (u.complete (s.report (some i))) := by
  cases i with
  | enc | dec | getbit | putbit | perm => exact next_ite_complete _ s
  | _ => exact ⟨_, rfl⟩

/-- The report does not depend on whether PENDING is taken yet. -/
theorem report_takePending (s : State) (d : Option Instr) : s.takePending.report d = s.report d := rfl

theorem runWord_completes_with_report (s : State) (c : Word) :
    ∃ u : State, s.runWord c = .next (u.complete (s.report (decode c))) := by
  rcases runWord_cases s c with ⟨illegal, reports⟩ | ⟨i, decoded, executes⟩
  · rw [illegal]
    exact ⟨_, reports⟩
  · rw [executes, decoded, ← report_takePending]
    exact exec_completes_with_report i s.takePending

/-- The four codes of 60_exceptions.md R261 are not 0 and differ from each other. -/
theorem ecodeOf_eq_code_iff (o : Option ErrorCode) (e : ErrorCode) : ecodeOf o = e.code ↔ o = some e := by
  cases o with
  | none => cases e <;> decide
  | some a => cases a <;> cases e <;> decide

theorem isSome_iff_ecodeOf_ne_zero (o : Option ErrorCode) : o.isSome = true ↔ ecodeOf o ≠ 0 := by
  cases o with
  | none => decide
  | some a => cases a <;> decide

theorem ecodeOf_le (o : Option ErrorCode) : (ecodeOf o).toNat ≤ 4 := by
  cases o with
  | none => decide
  | some e => exact (code_range e).2

/-- The negation of PERM's checks (40_bitplane.md R133). -/
theorem permLegal_eq_false_iff (s : State) (n : Nat) : s.permLegal n = false ↔
    65 ≤ n ∨ ∃ k : Fin 64, k.val < n ∧ (s.ptab[k].toNat = 0 ∨ 65 ≤ s.ptab[k].toNat) := by
  have outside (m : Nat) : ¬ (1 ≤ m ∧ m ≤ 64) ↔ m = 0 ∨ 65 ≤ m := by omega
  rw [← Bool.not_eq_true, permLegal_iff, not_and_or, not_le]
  simp only [not_forall, exists_prop, outside, Nat.lt_iff_add_one_le]

section
variable (s : State) (d : Option Instr)

theorem report_eq_illegalCmd_iff : s.report d = some .illegalCmd ↔ d = none := by
  rcases d with _ | i
  · simp [State.report]
  · cases i <;> simp [State.report]

theorem report_eq_bitRange_iff : s.report d = some .bitRange ↔
    ∃ p n, (d = some (.getbit p n) ∨ ∃ v, d = some (.putbit p n v)) ∧ (n = 0 ∨ 65 ≤ n) := by
  rcases d with _ | i
  · simp [State.report]
  · cases i <;> simp [State.report, legalBit_eq_false_iff]

theorem report_eq_permRange_iff : s.report d = some .permRange ↔
    ∃ n, d = some (.perm n) ∧
      (65 ≤ n ∨ ∃ k : Fin 64, k.val < n ∧ (s.ptab[k].toNat = 0 ∨ 65 ≤ s.ptab[k].toNat)) := by
  rcases d with _ | i
  · simp [State.report]
  · cases i <;> simp [State.report, permLegal_eq_false_iff]

theorem report_eq_noSchedule_iff : s.report d = some .noSchedule ↔ (d = some .enc ∨ d = some .dec) ∧ s.ksv = false := by
  rcases d with _ | i
  · simp [State.report]
  · cases i <;> simp [State.report]

end

/-- Settles O20: the report has its code, and each error its cause. -/
theorem errorCodesBelongToTheirCommands : Obligations.ErrorCodesBelongToTheirCommands := by
  intro s t c pending turn
  obtain ⟨u, completes⟩ := runWord_completes_with_report s c
  rw [engineTurn_of_pending pending] at turn
  cases completes.symm.trans turn
  have code := ecodeOf_eq_code_iff (s.report (decode c))
  exact ⟨isSome_iff_ecodeOf_ne_zero _, (code .illegalCmd).trans (report_eq_illegalCmd_iff s _),
    (code .bitRange).trans (report_eq_bitRange_iff s _), (code .permRange).trans (report_eq_permRange_iff s _),
    (code .noSchedule).trans (report_eq_noSchedule_iff s _), ecodeOf_le _⟩

/-- Settles O21: the ten have no error to report. -/
theorem commandsThatCannotFail : Obligations.CommandsThatCannotFail := by
  intro i named s
  have no_report : s.report (some i) = none := by
    revert i
    simp [State.report]
  obtain ⟨u, completes⟩ := exec_completes_with_report i s
  rw [no_report] at completes
  exact ⟨_, completes, rfl, rfl, rfl, rfl⟩

/-! ### No state stops the machine -/

/-- Settles O10: by the four kinds of step; a pending word's step ends its command, and the others answer outright. -/
theorem everyStepAnswersANextState : Obligations.EveryStepAnswersANextState := by
  intro s
  rcases step_cases s with ⟨_, host, -⟩ | ⟨_, idle, -⟩ | ⟨ts, c, ran, -⟩ | ⟨_, reset, -⟩
  · exact ⟨_, host⟩
  · exact ⟨_, idle⟩
  · obtain ⟨t, answer, -⟩ := runWord_ends (s.withTurns ts) c
    exact ⟨t, ran.trans answer⟩
  · exact ⟨_, reset⟩

/-! ### Overrun -/

theorem target_eq_some_iff (off : Nat) (w : Width) (r : Reg) :
    target off w = some r ↔ w = .w32 ∧ regAt off = some r := by
  unfold target
  split_ifs with word <;> simp [word]

/-- The host's next statement clears OVR: a write of STATUS with bit 4 set (20_memory.md R81). -/
def State.ClearsOvr (s : State) : Prop :=
  ∃ v : Word, v.getLsbD 4 = true ∧ s.program[s.hostPc]? = some (.write 0x004 .w32 v)

/-- The host's next statement is a write that a busy engine drops: of a register other than STATUS (20_memory.md
R82). -/
def State.Overruns (s : State) : Prop :=
  s.busy = true ∧ ∃ off v, off ≠ 0x004 ∧ (∃ r, regAt off = some r) ∧ s.program[s.hostPc]? = some (.write off .w32 v)

/-- What a host write, of any width and at any offset, does to OVR (60_exceptions.md R268). -/
theorem hostWrite_ovr (s : State) (off : Nat) (w : Width) (v : Word) :
    (s.hostWrite off w v).1.ovr = s.ovr ∨
    ((s.hostWrite off w v).1.ovr = false ∧ target off w = some .status ∧ v.getLsbD 4 = true) ∨
    ((s.hostWrite off w v).1.ovr = true ∧ s.busy = true ∧ ∃ r, target off w = some r ∧ r ≠ .status) := by
  rcases hostWrite_cases s off w v with ⟨-, h⟩ | ⟨status, h⟩ | ⟨r, reached, not_status, busy, h⟩ | ⟨r, -, -, -, h⟩
  · exact .inl (by rw [h])
  · rw [h, writeStatus_eq]
    cases bit : v.getLsbD 4
    · exact .inl (Bool.and_true _)
    · exact .inr (.inl ⟨Bool.and_false _, status, rfl⟩)
  · rw [h]
    exact .inr (.inr ⟨rfl, busy, r, reached, not_status⟩)
  · obtain ⟨-, -, -, -, ovr_kept, -⟩ := writeReg_frame s r v
    exact .inl (by rw [h, ovr_kept])

/-- What the host's turn does to OVR. -/
theorem hostTurn_ovr (s : State) :
    s.hostTurn.ovr = s.ovr ∨ (s.hostTurn.ovr = false ∧ s.ClearsOvr) ∨ (s.hostTurn.ovr = true ∧ s.Overruns) := by
  rcases hostTurn_cases s with ⟨-, h⟩ | ⟨off, w, v, next, h⟩ | ⟨_, _, _, -, -, h⟩
  · exact .inl (by rw [h])
  · rw [h, busWrite_state, State.advanceHost_ovr]
    split
    · rcases hostWrite_ovr s off w v with kept | ⟨falls, status, bit⟩ | ⟨rises, busy, r, reached, not_status⟩
      · exact .inl kept
      · obtain ⟨rfl, at_status⟩ := (target_eq_some_iff ..).mp status
        cases off_of_regAt at_status
        exact .inr (.inl ⟨falls, v, bit, next⟩)
      · obtain ⟨rfl, at_r⟩ := (target_eq_some_iff ..).mp reached
        refine .inr (.inr ⟨rises, busy, off, v, ?_, ⟨r, at_r⟩, next⟩)
        rintro rfl
        cases at_r
        exact not_status rfl
    · exact .inl rfl
  · exact .inl (by rw [h, State.advanceHost_ovr])

/-- No pending word's step changes OVR. -/
theorem runWord_ovr {s t : State} {c : Word} (ran : s.runWord c = .next t) : t.ovr = s.ovr := by
  rcases runWord_cases s c with ⟨-, reports⟩ | ⟨i, -, executes⟩
  · cases reports.symm.trans ran
    rfl
  · obtain ⟨-, -, -, -, -, ovr_kept, -⟩ :=
      noCommandWritesTheHostsRegisters i s.takePending t (executes.symm.trans ran)
    exact ovr_kept

/-- What a step does to OVR: it keeps it, a reset clears it, or the host moves and clears or overruns. -/
theorem step_ovr {s t : State} (stepped : step s = .next t) :
    t.ovr = s.ovr ∨ (t.ovr = false ∧ s.turns.head? = some .reset) ∨
    ((s.turns.head? = some .host ∨ (s.turns = [] ∧ s.pending = none)) ∧
      ((t.ovr = false ∧ s.ClearsOvr) ∨ (t.ovr = true ∧ s.Overruns))) := by
  rcases step_cases s with ⟨ts, host, turn⟩ | ⟨ts, idle, -⟩ | ⟨ts, c, ran, -⟩ | ⟨ts, reset, turn⟩
  · cases host.symm.trans stepped
    have host_moves : s.turns.head? = some .host ∨ (s.turns = [] ∧ s.pending = none) :=
      turn.imp (fun h => by rw [h]; rfl) fun ⟨no_turns, _, not_pending⟩ => ⟨no_turns, not_pending⟩
    exact (hostTurn_ovr (s.withTurns ts)).imp_right fun changed => .inr ⟨host_moves, changed⟩
  · cases idle.symm.trans stepped
    exact .inl rfl
  · exact .inl (runWord_ovr (s := s.withTurns ts) (ran.symm.trans stepped))
  · cases reset.symm.trans stepped
    exact .inr (.inl ⟨rfl, by rw [turn]; rfl⟩)

/-- Settles O16: of what a step can do to OVR, the value it has after the step leaves one case of each clause. -/
theorem overrunIsSticky : Obligations.OverrunIsSticky := by
  intro s t stepped
  rcases step_ovr stepped with kept | ⟨falls, reset⟩ | ⟨host_moves, ⟨falls, clears⟩ | ⟨rises, busy, drops⟩⟩
  · rw [kept]
    exact ⟨fun set clear => absurd clear (ne_false_of_eq_true set),
      fun clear set => absurd clear (ne_false_of_eq_true set)⟩
  · exact ⟨fun _ _ => .inl reset, fun _ set => absurd falls (ne_false_of_eq_true set)⟩
  · exact ⟨fun _ _ => .inr ⟨host_moves, clears⟩, fun _ set => absurd falls (ne_false_of_eq_true set)⟩
  · exact ⟨fun _ clear => absurd clear (ne_false_of_eq_true rises), fun _ _ => ⟨busy, host_moves, drops⟩⟩

end Sys2Proof.Machine
end

section
/-! The reset event (70_reset_and_hazards.md R290, R291). -/

namespace Sys2Proof.Machine

/-- A step of the reset input is the reset event, whatever the engine has pending. -/
theorem step_reset {s : State} {ts : List Turn} (turn : s.turns = .reset :: ts) :
    step s = .next (s.withTurns ts).resetTurn := by
  simp only [step, turn]

/-- Settles O17: the reset event is stated on the state whose turn is consumed, and consuming a turn leaves the
host's program, position and last response. -/
theorem resetDiscardsEverything : Obligations.ResetDiscardsEverything :=
  fun _ _ turn => ⟨_, step_reset turn, rfl⟩

end Sys2Proof.Machine
end
